-- ==== Sys2Proof/Word.lean ====
section
/-! DEFINITION. The words of the mapper controller: bytes, bus addresses, the 26-bit transaction word, the two bus
spaces and the two directions, and the type of a byte store's contents. -/

namespace Sys2Proof

/-- A data byte (R7: data width 8 bits). -/
abbrev Byte := BitVec 8

/-- A bus address (R7: 16 bits on both sides). -/
abbrev Addr := BitVec 16

/-- The transaction word `TW` (R91): 26 bits, every value legal. -/
abbrev TxWord := BitVec 26

/-- The bus-side address spaces (R60, R90): PRG is the CPU side, CHR the PPU side. -/
inductive Space where
  | prg
  | chr
  deriving DecidableEq, Repr

/-- The direction of a transaction, `rw` of R90. -/
inductive Dir where
  | load
  | store
  deriving DecidableEq, Repr

/-- Contents of a byte store: (offset, byte) pairs, offsets strictly rising, no listed byte equal to 0x00, which is
what an unlisted offset holds (RAM is zero-filled at construction, R44, R45; for ROM see log entry 6). -/
abbrev Memory := List Host.Cell

end Sys2Proof
end

