-- ==== Sys2Proof/Config.lean ====
section
/-! DEFINITION. What is fixed for a machine: the sizes of R7, the chip variants of R2, the ROM image and the
parameters of R6. -/

namespace Sys2Proof

/-- 8 KB: the size of PRG-RAM and CHR-RAM and of an M4 PRG bank (R7). -/
abbrev size8K : Nat := 8192

/-- 16 KB: the size of an M1 PRG bank, and the unit of a PRG image's length (R7, R6). -/
abbrev size16K : Nat := 16384

/-- The three chip variants in scope (R2). -/
inductive Variant where
  | m0
  | m1
  | m4
  deriving DecidableEq, Repr

/-- `M4_MODE_POLARITY` (R6, R37): which value of `bank_select[6]` means swappable-at-8000. -/
inductive Polarity where
  | zeroIs8000
  | zeroIsC000
  deriving DecidableEq, Repr

/-- The configuration of the machine that CONSTRUCT does not supply. It is held in State, nothing writes it, and
statements quantify over it. -/
structure Config where
  m4ModePolarity : Polarity
  deriving DecidableEq, Repr

/-- The value the spec takes (R6, R37, decision D8; log entry 7). -/
def Config.default : Config := { m4ModePolarity := .zeroIs8000 }

/-- The ROM image (R6, R230): the operand of CONSTRUCT and the parameters of the live chip. A byte sequence is its
length and its contents (log entry 6). `headerBanks` is the PRG bank count a header may carry (R235, C1);
`mirrorHint` is `MIRROR_HINT`, which no rule reads. -/
structure RomImage where
  mapperId    : Nat
  prgLen      : Nat
  prg         : Memory
  chrLen      : Nat
  chr         : Memory
  headerBanks : Option Nat
  mirrorHint  : Nat
  deriving DecidableEq, Repr

end Sys2Proof
end

