-- ==== Sys2Proof/Machine/Memory.lean ====
section
/-! DEFINITION. Contents of the byte stores: read and write of one byte, the canonical form, and the derived numbers
of a ROM image. -/

namespace Sys2Proof

/-- The byte at offset `k`; an unlisted offset holds 0x00. -/
def Memory.read : Memory → Nat → Byte
  | [], _ => 0
  | (a, b) :: m, k => if a = k then b else Memory.read m k

/-- The contents with the byte at offset `k` replaced by `v`, in canonical form. -/
def Memory.write : Memory → Nat → Byte → Memory
  | [], k, v => if v = 0 then [] else [(k, v)]
  | (a, b) :: m, k, v =>
    if a < k then (a, b) :: Memory.write m k v
    else if a = k then (if v = 0 then m else (k, v) :: m)
    else (if v = 0 then (a, b) :: m else (k, v) :: (a, b) :: m)

/-- The canonical form: offsets strictly rising, no listed byte 0x00. -/
def Memory.wf : Memory → Bool
  | [] => true
  | (a, b) :: m => b != 0 && m.all (fun c => decide (a < c.1)) && Memory.wf m

/-- Every listed offset is below `n`. -/
def Memory.below (n : Nat) (m : Memory) : Bool := m.all (fun c => decide (c.1 < n))

/-- `PRG_BANKS16` (R6, D11): the PRG bank count in 16 KB banks. -/
def RomImage.prgBanks16 (img : RomImage) : Nat := img.prgLen / size16K

/-- `PRG_BANKS8` (R6, D7): the PRG bank count in 8 KB banks. -/
def RomImage.prgBanks8 (img : RomImage) : Nat := img.prgLen / size8K

/-- The image's byte sequences are in canonical form and lie inside their lengths. This is about how the model holds a
sequence of bytes (log entry 6), not about the hardware. -/
def RomImage.canonical (img : RomImage) : Bool :=
  Memory.wf img.prg && Memory.below img.prgLen img.prg && Memory.wf img.chr && Memory.below img.chrLen img.chr

/-- The precondition of construction (R235): `PRG_LEN` is a positive multiple of 16384 and a header's own bank count,
if there is one, is `PRG_LEN div 16384`. `CHR_LEN` has no precondition. -/
def RomImage.lengthOk (img : RomImage) : Bool :=
  decide (0 < img.prgLen) && decide (img.prgLen % size16K = 0) &&
    match img.headerBanks with
    | none => true
    | some n => decide (n = RomImage.prgBanks16 img)

end Sys2Proof
end

