-- ==== Sys2Proof/Syntax.lean ====
section
/-! DEFINITION. The instructions: one constructor per row of spec/opcode_table.json (R3, R96). A load carries its
16-bit address, a store its address and its byte (R90), CONSTRUCT the ROM image (R230). A class of several table rows
(suffixes _a, _b, _c) has one constructor per row, ending in A, B, C. -/

namespace Sys2Proof

inductive Instr where
  -- M0, FixedMapping (41_fixed_mapping.md)
  | m0PldLow (addr : Addr)
  | m0PldRom (addr : Addr)
  | m0Pst (addr : Addr) (val : Byte)
  | m0Cld (addr : Addr)
  | m0CldHighA (addr : Addr)
  | m0CldHighB (addr : Addr)
  | m0CldHighC (addr : Addr)
  | m0Cst (addr : Addr) (val : Byte)
  -- M1, ShiftRegisterBanking (42_shift_register_banking.md)
  | m1PldLow (addr : Addr)
  | m1PldB8 (addr : Addr)
  | m1PldBC (addr : Addr)
  | m1PstLow (addr : Addr) (val : Byte)
  | m1PstReset (addr : Addr) (val : Byte)
  | m1PstShiftCtrl (addr : Addr) (val : Byte)
  | m1PstShiftChr0 (addr : Addr) (val : Byte)
  | m1PstShiftChr1 (addr : Addr) (val : Byte)
  | m1PstShiftPrg (addr : Addr) (val : Byte)
  | m1Cld (addr : Addr)
  | m1CldHighA (addr : Addr)
  | m1CldHighB (addr : Addr)
  | m1CldHighC (addr : Addr)
  | m1Cst (addr : Addr) (val : Byte)
  | m1CstHighA (addr : Addr) (val : Byte)
  | m1CstHighB (addr : Addr) (val : Byte)
  | m1CstHighC (addr : Addr) (val : Byte)
  -- M4, IndexedBanking (43_indexed_banking.md)
  | m4PldLowA (addr : Addr)
  | m4PldLowB (addr : Addr)
  | m4PldRam (addr : Addr)
  | m4PldW8 (addr : Addr)
  | m4PldWA (addr : Addr)
  | m4PldWC (addr : Addr)
  | m4PldWE (addr : Addr)
  | m4PstLowA (addr : Addr) (val : Byte)
  | m4PstLowB (addr : Addr) (val : Byte)
  | m4PstRam (addr : Addr) (val : Byte)
  | m4PstSelect (addr : Addr) (val : Byte)
  | m4PstData (addr : Addr) (val : Byte)
  | m4PstHighA (addr : Addr) (val : Byte)
  | m4PstHighB (addr : Addr) (val : Byte)
  | m4Cld (addr : Addr)
  | m4CldHighA (addr : Addr)
  | m4CldHighB (addr : Addr)
  | m4CldHighC (addr : Addr)
  | m4Cst (addr : Addr) (val : Byte)
  -- F, the Mapper Factory (70_reset_and_hazards.md)
  | construct (image : RomImage)
  deriving DecidableEq, Repr

end Sys2Proof
end

