-- ==== Sys2Proof/WellFormed.lean ====
section
/-! DEFINITION. Which instructions are well formed: the address lies in the window of the class's table row, the data
or address bit has the value the row fixes (R96), and CONSTRUCT's image is held in canonical form. -/

namespace Sys2Proof

/-- `addr` lies in the window `lo`-`hi`, inclusive at both ends (R17). -/
def inWindow (lo hi : Nat) (addr : Addr) : Bool := decide (lo ≤ addr.toNat) && decide (addr.toNat ≤ hi)

/-- The window and condition of the instruction's row in R96. -/
def Instr.wf : Instr → Bool
  | .m0PldLow a => inWindow 0x0000 0x7FFF a
  | .m0PldRom a => inWindow 0x8000 0xFFFF a
  | .m0Pst _ _ => true
  | .m0Cld a => inWindow 0x0000 0x1FFF a
  | .m0CldHighA a => inWindow 0x8000 0xFFFF a
  | .m0CldHighB a => inWindow 0x4000 0x7FFF a
  | .m0CldHighC a => inWindow 0x2000 0x3FFF a
  | .m0Cst _ _ => true
  | .m1PldLow a => inWindow 0x0000 0x7FFF a
  | .m1PldB8 a => inWindow 0x8000 0xBFFF a
  | .m1PldBC a => inWindow 0xC000 0xFFFF a
  | .m1PstLow a _ => inWindow 0x0000 0x7FFF a
  | .m1PstReset a v => inWindow 0x8000 0xFFFF a && v.getLsbD 7
  | .m1PstShiftCtrl a v => inWindow 0x8000 0x9FFF a && !v.getLsbD 7
  | .m1PstShiftChr0 a v => inWindow 0xA000 0xBFFF a && !v.getLsbD 7
  | .m1PstShiftChr1 a v => inWindow 0xC000 0xDFFF a && !v.getLsbD 7
  | .m1PstShiftPrg a v => inWindow 0xE000 0xFFFF a && !v.getLsbD 7
  | .m1Cld a => inWindow 0x0000 0x1FFF a
  | .m1CldHighA a => inWindow 0x8000 0xFFFF a
  | .m1CldHighB a => inWindow 0x4000 0x7FFF a
  | .m1CldHighC a => inWindow 0x2000 0x3FFF a
  | .m1Cst a _ => inWindow 0x0000 0x1FFF a
  | .m1CstHighA a _ => inWindow 0x8000 0xFFFF a
  | .m1CstHighB a _ => inWindow 0x4000 0x7FFF a
  | .m1CstHighC a _ => inWindow 0x2000 0x3FFF a
  | .m4PldLowA a => inWindow 0x0000 0x3FFF a
  | .m4PldLowB a => inWindow 0x4000 0x5FFF a
  | .m4PldRam a => inWindow 0x6000 0x7FFF a
  | .m4PldW8 a => inWindow 0x8000 0x9FFF a
  | .m4PldWA a => inWindow 0xA000 0xBFFF a
  | .m4PldWC a => inWindow 0xC000 0xDFFF a
  | .m4PldWE a => inWindow 0xE000 0xFFFF a
  | .m4PstLowA a _ => inWindow 0x0000 0x3FFF a
  | .m4PstLowB a _ => inWindow 0x4000 0x5FFF a
  | .m4PstRam a _ => inWindow 0x6000 0x7FFF a
  | .m4PstSelect a _ => inWindow 0x8000 0x9FFF a && !a.getLsbD 0
  | .m4PstData a _ => inWindow 0x8000 0x9FFF a && a.getLsbD 0
  | .m4PstHighA a _ => inWindow 0xA000 0xBFFF a
  | .m4PstHighB a _ => inWindow 0xC000 0xFFFF a
  | .m4Cld a => inWindow 0x0000 0x1FFF a
  | .m4CldHighA a => inWindow 0x8000 0xFFFF a
  | .m4CldHighB a => inWindow 0x4000 0x7FFF a
  | .m4CldHighC a => inWindow 0x2000 0x3FFF a
  | .m4Cst _ _ => true
  | .construct img => RomImage.canonical img

end Sys2Proof
end

