-- ==== Sys2Proof/Decode.lean ====
section
/-! DEFINITION. The transaction word: its fields, decoding (total, for a given live variant, R92, R97), the encoder,
the opcode table as data, and the pseudo-operations of R102. -/

namespace Sys2Proof

/-! ### Fields of the word (R91) -/

def Space.bit : Space → TxWord
  | .prg => 0
  | .chr => 1

def Dir.bit : Dir → TxWord
  | .load => 0
  | .store => 1

/-- `TW = (space << 25) | (rw << 24) | (addr << 8) | val` (R91). -/
def packTx (sp : Space) (rw : Dir) (addr : Addr) (val : Byte) : TxWord :=
  (sp.bit <<< 25) ||| (rw.bit <<< 24) ||| (addr.setWidth 26 <<< 8) ||| val.setWidth 26

/-- `TW[25]`: 0 is PRG, 1 is CHR (R91). -/
def spaceOf (tw : TxWord) : Space := if tw.getLsbD 25 then .chr else .prg

/-- `TW[24]`: 0 is LOAD, 1 is STORE (R91). -/
def dirOf (tw : TxWord) : Dir := if tw.getLsbD 24 then .store else .load

/-- `TW[23:8]` (R91). -/
def addrOf (tw : TxWord) : Addr := tw.extractLsb' 8 16

/-- `TW[7:0]` (R91). -/
def valOf (tw : TxWord) : Byte := tw.extractLsb' 0 8

/-! ### Decoding (R96, R97) -/

/-- What the host presents: a transaction word, or a construction with its ROM image, which has no word (R92). -/
inductive Presented where
  | word (tw : TxWord)
  | construct (image : RomImage)
  deriving DecidableEq, Repr

/-- Why nothing is decoded. -/
inductive DecodeError where
  /-- A transaction is presented and no chip is live, so no rows apply (R92, R113). -/
  | noLiveVariant
  deriving DecidableEq, Repr

/-- A CHR load on any chip: below $2000, or one of the three pieces of CLD.HIGH (R93, R96). -/
def chrPieces (cld highA highB highC : Addr → Instr) (addr : Addr) : Instr :=
  if addr.toNat < 0x2000 then cld addr
  else if addr.toNat < 0x4000 then highC addr
  else if addr.toNat < 0x8000 then highB addr
  else highA addr

/-- The class of a transaction on M0 (R96). -/
def classifyM0 (sp : Space) (rw : Dir) (addr : Addr) (val : Byte) : Instr :=
  match sp, rw with
  | .prg, .load => if addr.toNat < 0x8000 then .m0PldLow addr else .m0PldRom addr
  | .prg, .store => .m0Pst addr val
  | .chr, .load => chrPieces .m0Cld .m0CldHighA .m0CldHighB .m0CldHighC addr
  | .chr, .store => .m0Cst addr val

/-- The class of a transaction on M1 (R96). -/
def classifyM1 (sp : Space) (rw : Dir) (addr : Addr) (val : Byte) : Instr :=
  match sp, rw with
  | .prg, .load =>
    if addr.toNat < 0x8000 then .m1PldLow addr
    else if addr.toNat < 0xC000 then .m1PldB8 addr
    else .m1PldBC addr
  | .prg, .store =>
    if addr.toNat < 0x8000 then .m1PstLow addr val
    else if val.getLsbD 7 then .m1PstReset addr val
    else if addr.toNat < 0xA000 then .m1PstShiftCtrl addr val
    else if addr.toNat < 0xC000 then .m1PstShiftChr0 addr val
    else if addr.toNat < 0xE000 then .m1PstShiftChr1 addr val
    else .m1PstShiftPrg addr val
  | .chr, .load => chrPieces .m1Cld .m1CldHighA .m1CldHighB .m1CldHighC addr
  | .chr, .store =>
    chrPieces (.m1Cst · val) (.m1CstHighA · val) (.m1CstHighB · val) (.m1CstHighC · val) addr

/-- The class of a transaction on M4 (R96). -/
def classifyM4 (sp : Space) (rw : Dir) (addr : Addr) (val : Byte) : Instr :=
  match sp, rw with
  | .prg, .load =>
    if addr.toNat < 0x4000 then .m4PldLowA addr
    else if addr.toNat < 0x6000 then .m4PldLowB addr
    else if addr.toNat < 0x8000 then .m4PldRam addr
    else if addr.toNat < 0xA000 then .m4PldW8 addr
    else if addr.toNat < 0xC000 then .m4PldWA addr
    else if addr.toNat < 0xE000 then .m4PldWC addr
    else .m4PldWE addr
  | .prg, .store =>
    if addr.toNat < 0x4000 then .m4PstLowA addr val
    else if addr.toNat < 0x6000 then .m4PstLowB addr val
    else if addr.toNat < 0x8000 then .m4PstRam addr val
    else if addr.toNat < 0xA000 then (if addr.getLsbD 0 then .m4PstData addr val else .m4PstSelect addr val)
    else if addr.toNat < 0xC000 then .m4PstHighA addr val
    else .m4PstHighB addr val
  | .chr, .load => chrPieces .m4Cld .m4CldHighA .m4CldHighB .m4CldHighC addr
  | .chr, .store => .m4Cst addr val

/-- The class of a transaction on a variant; total (R97). -/
def classify : Variant → Space → Dir → Addr → Byte → Instr
  | .m0 => classifyM0
  | .m1 => classifyM1
  | .m4 => classifyM4

/-- The decoder: the live variant's rows are selected first, then the word is matched (R92, R97). A construction needs
no live variant (R230). The data field of a load is ignored (R91, D20). -/
def decode : Option Variant → Presented → Except DecodeError Instr
  | _, .construct img => .ok (.construct img)
  | none, .word _ => .error .noLiveVariant
  | some v, .word tw => .ok (classify v (spaceOf tw) (dirOf tw) (addrOf tw) (valOf tw))

/-- The variant whose rows `decodeTableWord` uses: a word alone does not say which chip is live (log entry 4). -/
def tableVariant : Variant := .m4

/-- The instruction the decoder reads from a table word: M4's, the rows of the three variants sharing their words
(R92; log entry 4). A number of more than 26 bits is no transaction word. -/
def decodeTableWord (_nbits w : Nat) : Option Instr :=
  if w < 2 ^ 26 then
    match decode (some tableVariant) (.word (BitVec.ofNat 26 w)) with
    | .ok i => some i
    | .error _ => none
  else none

/-! ### Encoding (R91, R96) -/

/-- The variant whose transaction class the instruction is; CONSTRUCT belongs to none (R92). -/
def Instr.variant : Instr → Option Variant
  | .m0PldLow _ => some .m0
  | .m0PldRom _ => some .m0
  | .m0Pst _ _ => some .m0
  | .m0Cld _ => some .m0
  | .m0CldHighA _ => some .m0
  | .m0CldHighB _ => some .m0
  | .m0CldHighC _ => some .m0
  | .m0Cst _ _ => some .m0
  | .m1PldLow _ => some .m1
  | .m1PldB8 _ => some .m1
  | .m1PldBC _ => some .m1
  | .m1PstLow _ _ => some .m1
  | .m1PstReset _ _ => some .m1
  | .m1PstShiftCtrl _ _ => some .m1
  | .m1PstShiftChr0 _ _ => some .m1
  | .m1PstShiftChr1 _ _ => some .m1
  | .m1PstShiftPrg _ _ => some .m1
  | .m1Cld _ => some .m1
  | .m1CldHighA _ => some .m1
  | .m1CldHighB _ => some .m1
  | .m1CldHighC _ => some .m1
  | .m1Cst _ _ => some .m1
  | .m1CstHighA _ _ => some .m1
  | .m1CstHighB _ _ => some .m1
  | .m1CstHighC _ _ => some .m1
  | .m4PldLowA _ => some .m4
  | .m4PldLowB _ => some .m4
  | .m4PldRam _ => some .m4
  | .m4PldW8 _ => some .m4
  | .m4PldWA _ => some .m4
  | .m4PldWC _ => some .m4
  | .m4PldWE _ => some .m4
  | .m4PstLowA _ _ => some .m4
  | .m4PstLowB _ _ => some .m4
  | .m4PstRam _ _ => some .m4
  | .m4PstSelect _ _ => some .m4
  | .m4PstData _ _ => some .m4
  | .m4PstHighA _ _ => some .m4
  | .m4PstHighB _ _ => some .m4
  | .m4Cld _ => some .m4
  | .m4CldHighA _ => some .m4
  | .m4CldHighB _ => some .m4
  | .m4CldHighC _ => some .m4
  | .m4Cst _ _ => some .m4
  | .construct _ => none

/-- The instruction as the host presents it. A load's data field is 0, the canonical value (R91, D20). -/
def encode : Instr → Presented
  | .m0PldLow a => .word (packTx .prg .load a 0)
  | .m0PldRom a => .word (packTx .prg .load a 0)
  | .m0Pst a v => .word (packTx .prg .store a v)
  | .m0Cld a => .word (packTx .chr .load a 0)
  | .m0CldHighA a => .word (packTx .chr .load a 0)
  | .m0CldHighB a => .word (packTx .chr .load a 0)
  | .m0CldHighC a => .word (packTx .chr .load a 0)
  | .m0Cst a v => .word (packTx .chr .store a v)
  | .m1PldLow a => .word (packTx .prg .load a 0)
  | .m1PldB8 a => .word (packTx .prg .load a 0)
  | .m1PldBC a => .word (packTx .prg .load a 0)
  | .m1PstLow a v => .word (packTx .prg .store a v)
  | .m1PstReset a v => .word (packTx .prg .store a v)
  | .m1PstShiftCtrl a v => .word (packTx .prg .store a v)
  | .m1PstShiftChr0 a v => .word (packTx .prg .store a v)
  | .m1PstShiftChr1 a v => .word (packTx .prg .store a v)
  | .m1PstShiftPrg a v => .word (packTx .prg .store a v)
  | .m1Cld a => .word (packTx .chr .load a 0)
  | .m1CldHighA a => .word (packTx .chr .load a 0)
  | .m1CldHighB a => .word (packTx .chr .load a 0)
  | .m1CldHighC a => .word (packTx .chr .load a 0)
  | .m1Cst a v => .word (packTx .chr .store a v)
  | .m1CstHighA a v => .word (packTx .chr .store a v)
  | .m1CstHighB a v => .word (packTx .chr .store a v)
  | .m1CstHighC a v => .word (packTx .chr .store a v)
  | .m4PldLowA a => .word (packTx .prg .load a 0)
  | .m4PldLowB a => .word (packTx .prg .load a 0)
  | .m4PldRam a => .word (packTx .prg .load a 0)
  | .m4PldW8 a => .word (packTx .prg .load a 0)
  | .m4PldWA a => .word (packTx .prg .load a 0)
  | .m4PldWC a => .word (packTx .prg .load a 0)
  | .m4PldWE a => .word (packTx .prg .load a 0)
  | .m4PstLowA a v => .word (packTx .prg .store a v)
  | .m4PstLowB a v => .word (packTx .prg .store a v)
  | .m4PstRam a v => .word (packTx .prg .store a v)
  | .m4PstSelect a v => .word (packTx .prg .store a v)
  | .m4PstData a v => .word (packTx .prg .store a v)
  | .m4PstHighA a v => .word (packTx .prg .store a v)
  | .m4PstHighB a v => .word (packTx .prg .store a v)
  | .m4Cld a => .word (packTx .chr .load a 0)
  | .m4CldHighA a => .word (packTx .chr .load a 0)
  | .m4CldHighB a => .word (packTx .chr .load a 0)
  | .m4CldHighC a => .word (packTx .chr .load a 0)
  | .m4Cst a v => .word (packTx .chr .store a v)
  | .construct img => .construct img

/-! ### The opcode table (R96, spec/opcode_table.json) -/

/-- The instruction's mnemonic in the table. -/
def Instr.mnemonic : Instr → String
  | .m0PldLow _ => "M0.PLD.LOW"
  | .m0PldRom _ => "M0.PLD.ROM"
  | .m0Pst _ _ => "M0.PST"
  | .m0Cld _ => "M0.CLD"
  | .m0CldHighA _ => "M0.CLD.HIGH_a"
  | .m0CldHighB _ => "M0.CLD.HIGH_b"
  | .m0CldHighC _ => "M0.CLD.HIGH_c"
  | .m0Cst _ _ => "M0.CST"
  | .m1PldLow _ => "M1.PLD.LOW"
  | .m1PldB8 _ => "M1.PLD.B8"
  | .m1PldBC _ => "M1.PLD.BC"
  | .m1PstLow _ _ => "M1.PST.LOW"
  | .m1PstReset _ _ => "M1.PST.RESET"
  | .m1PstShiftCtrl _ _ => "M1.PST.SHIFT.CTRL"
  | .m1PstShiftChr0 _ _ => "M1.PST.SHIFT.CHR0"
  | .m1PstShiftChr1 _ _ => "M1.PST.SHIFT.CHR1"
  | .m1PstShiftPrg _ _ => "M1.PST.SHIFT.PRG"
  | .m1Cld _ => "M1.CLD"
  | .m1CldHighA _ => "M1.CLD.HIGH_a"
  | .m1CldHighB _ => "M1.CLD.HIGH_b"
  | .m1CldHighC _ => "M1.CLD.HIGH_c"
  | .m1Cst _ _ => "M1.CST"
  | .m1CstHighA _ _ => "M1.CST.HIGH_a"
  | .m1CstHighB _ _ => "M1.CST.HIGH_b"
  | .m1CstHighC _ _ => "M1.CST.HIGH_c"
  | .m4PldLowA _ => "M4.PLD.LOW_a"
  | .m4PldLowB _ => "M4.PLD.LOW_b"
  | .m4PldRam _ => "M4.PLD.RAM"
  | .m4PldW8 _ => "M4.PLD.W8"
  | .m4PldWA _ => "M4.PLD.WA"
  | .m4PldWC _ => "M4.PLD.WC"
  | .m4PldWE _ => "M4.PLD.WE"
  | .m4PstLowA _ _ => "M4.PST.LOW_a"
  | .m4PstLowB _ _ => "M4.PST.LOW_b"
  | .m4PstRam _ _ => "M4.PST.RAM"
  | .m4PstSelect _ _ => "M4.PST.SELECT"
  | .m4PstData _ _ => "M4.PST.DATA"
  | .m4PstHighA _ _ => "M4.PST.HIGH_a"
  | .m4PstHighB _ _ => "M4.PST.HIGH_b"
  | .m4Cld _ => "M4.CLD"
  | .m4CldHighA _ => "M4.CLD.HIGH_a"
  | .m4CldHighB _ => "M4.CLD.HIGH_b"
  | .m4CldHighC _ => "M4.CLD.HIGH_c"
  | .m4Cst _ _ => "M4.CST"
  | .construct _ => "CONSTRUCT"

/-- The rows of one variant: mnemonic, `match` and `mask` over `TW`. -/
def opcodeRows : Variant → List (String × TxWord × TxWord)
  | .m0 => [
    ("M0.PLD.LOW", 0x0000000, 0x3800000),
    ("M0.PLD.ROM", 0x0800000, 0x3800000),
    ("M0.PST", 0x1000000, 0x3000000),
    ("M0.CLD", 0x2000000, 0x3e00000),
    ("M0.CLD.HIGH_a", 0x2800000, 0x3800000),
    ("M0.CLD.HIGH_b", 0x2400000, 0x3c00000),
    ("M0.CLD.HIGH_c", 0x2200000, 0x3e00000),
    ("M0.CST", 0x3000000, 0x3000000)]
  | .m1 => [
    ("M1.PLD.LOW", 0x0000000, 0x3800000),
    ("M1.PLD.B8", 0x0800000, 0x3c00000),
    ("M1.PLD.BC", 0x0c00000, 0x3c00000),
    ("M1.PST.LOW", 0x1000000, 0x3800000),
    ("M1.PST.RESET", 0x1800080, 0x3800080),
    ("M1.PST.SHIFT.CTRL", 0x1800000, 0x3e00080),
    ("M1.PST.SHIFT.CHR0", 0x1a00000, 0x3e00080),
    ("M1.PST.SHIFT.CHR1", 0x1c00000, 0x3e00080),
    ("M1.PST.SHIFT.PRG", 0x1e00000, 0x3e00080),
    ("M1.CLD", 0x2000000, 0x3e00000),
    ("M1.CLD.HIGH_a", 0x2800000, 0x3800000),
    ("M1.CLD.HIGH_b", 0x2400000, 0x3c00000),
    ("M1.CLD.HIGH_c", 0x2200000, 0x3e00000),
    ("M1.CST", 0x3000000, 0x3e00000),
    ("M1.CST.HIGH_a", 0x3800000, 0x3800000),
    ("M1.CST.HIGH_b", 0x3400000, 0x3c00000),
    ("M1.CST.HIGH_c", 0x3200000, 0x3e00000)]
  | .m4 => [
    ("M4.PLD.LOW_a", 0x0000000, 0x3c00000),
    ("M4.PLD.LOW_b", 0x0400000, 0x3e00000),
    ("M4.PLD.RAM", 0x0600000, 0x3e00000),
    ("M4.PLD.W8", 0x0800000, 0x3e00000),
    ("M4.PLD.WA", 0x0a00000, 0x3e00000),
    ("M4.PLD.WC", 0x0c00000, 0x3e00000),
    ("M4.PLD.WE", 0x0e00000, 0x3e00000),
    ("M4.PST.LOW_a", 0x1000000, 0x3c00000),
    ("M4.PST.LOW_b", 0x1400000, 0x3e00000),
    ("M4.PST.RAM", 0x1600000, 0x3e00000),
    ("M4.PST.SELECT", 0x1800000, 0x3e00100),
    ("M4.PST.DATA", 0x1800100, 0x3e00100),
    ("M4.PST.HIGH_a", 0x1a00000, 0x3e00000),
    ("M4.PST.HIGH_b", 0x1c00000, 0x3c00000),
    ("M4.CLD", 0x2000000, 0x3e00000),
    ("M4.CLD.HIGH_a", 0x2800000, 0x3800000),
    ("M4.CLD.HIGH_b", 0x2400000, 0x3c00000),
    ("M4.CLD.HIGH_c", 0x2200000, 0x3e00000),
    ("M4.CST", 0x3000000, 0x3000000)]

/-- The mnemonics of the rows `(TW & mask) == match` holds for (R97). -/
def matchingRows (v : Variant) (tw : TxWord) : List String :=
  ((opcodeRows v).filter (fun r => tw &&& r.2.2 == r.2.1)).map (fun r => r.1)

/-! ### Pseudo-operations (R102) -/

/-- `PST $aaaa, #$vv` (R101). -/
def pst (addr : Addr) (val : Byte) : Presented := .word (packTx .prg .store addr val)

/-- `SER5 $aaaa, #v`: five stores of the bits of `v`, bit 0 first. -/
def opSer5 (addr : Addr) (v : BitVec 5) : List Presented :=
  [pst addr (v.setWidth 8 >>> 0 &&& 1), pst addr (v.setWidth 8 >>> 1 &&& 1), pst addr (v.setWidth 8 >>> 2 &&& 1),
   pst addr (v.setWidth 8 >>> 3 &&& 1), pst addr (v.setWidth 8 >>> 4 &&& 1)]

/-- `SRST`: a reset write of M1. -/
def opSrst : List Presented := [pst 0x8000 0x80]

/-- `BSEL #s`: a bank select write of M4. -/
def opBsel (s : Byte) : List Presented := [pst 0x8000 s]

/-- `BDAT #v`: a bank data write of M4. -/
def opBdat (v : Byte) : List Presented := [pst 0x8001 v]

/-- `SLOT #s, #v`: `BSEL #s` then `BDAT #v`. -/
def opSlot (s v : Byte) : List Presented := opBsel s ++ opBdat v

end Sys2Proof
end

