-- ==== Sys2Proof/Machine/State.lean ====
section
/-! DEFINITION. The state of the mapper controller, the reasons a step can stop, and the state before the first
construction. -/

namespace Sys2Proof.Machine

/-! ### Physical stores, slots and the translation result -/

/-- The four physical stores (R60). -/
inductive PhysStore where
  | prgRom
  | chrRom
  | prgRam
  | chrRam
  deriving DecidableEq, Repr

/-- The four destinations of an M1 commit (R149). -/
inductive SerialDest where
  | ctrl
  | chrBank0
  | chrBank1
  | prgBank
  deriving DecidableEq, Repr

/-- The eight bank-index slots of M4 (R36). -/
inductive Slot where
  | chr2k0
  | chr2k1
  | chr1k0
  | chr1k1
  | chr1k2
  | chr1k3
  | prgBank0
  | prgBank1
  deriving DecidableEq, Repr

/-- The register a `REG` target names: the M1 serial port with the destination of its window (R64), the M4 bank select
register, or an M4 slot (R65). -/
inductive RegName where
  | serial (dest : SerialDest)
  | bankSelect
  | slot (s : Slot)
  deriving DecidableEq, Repr

/-- The translation result of a transaction (R62). -/
inductive Target where
  | zero
  | ignore
  | rom (store : PhysStore) (off : Nat)
  | ram (store : PhysStore) (off : Nat)
  | reg (name : RegName)
  deriving DecidableEq, Repr

/-! ### Chips -/

/-- The state of ShiftRegisterBanking (R22). `write_count` takes three bits (R31). -/
structure M1Regs where
  ctrl       : Byte
  chrBank0   : Byte
  chrBank1   : Byte
  prgBank    : Byte
  accum      : Byte
  writeCount : BitVec 3
  prgRam     : Memory
  chrRam     : Memory
  deriving DecidableEq, Repr

/-- The state of IndexedBanking (R34). -/
structure M4Regs where
  bankSelect : Byte
  chr2k0     : Byte
  chr2k1     : Byte
  chr1k0     : Byte
  chr1k1     : Byte
  chr1k2     : Byte
  chr1k3     : Byte
  prgBank0   : Byte
  prgBank1   : Byte
  prgRam     : Memory
  deriving DecidableEq, Repr

/-- A chip: exactly one variant with that variant's registers (R20, R50); M0 has no state (R21). -/
inductive Chip where
  | m0
  | m1 (regs : M1Regs)
  | m4 (regs : M4Regs)
  deriving DecidableEq, Repr

/-- A live chip with the ROM image it owns (R20). -/
structure Cart where
  image : RomImage
  chip  : Chip
  deriving DecidableEq, Repr

/-! ### Errors -/

/-- Where a decode could meet a value outside its domain (R202, R203). -/
inductive DecodeSite where
  | m4PstData
  | m1PrgMode
  deriving DecidableEq, Repr

/-- The two fatal errors of R200 with the information each records (R201, R202). -/
inductive ErrorRecord where
  | unsupportedMapper (mapperId : Nat)
  | unreachableState (site : DecodeSite) (value : Nat)
  deriving DecidableEq, Repr

/-- Why the machine is stuck. -/
inductive Fault where
  /-- Raised by every transaction presented when no chip is live: R113, "no transaction has a step". Safe: the spec
  gives such a transaction no result. -/
  | noLiveChip
  /-- Raised by every transaction presented after a fatal error was recorded: R113, R206. Safe: the spec gives such a
  transaction no result, and no run reaches it (R202, R203). -/
  | faultRecorded
  /-- Raised by a load or a RAM store whose offset lies outside its physical store. Safe: R66 and R67 say the calling
  rules guarantee the offset; it happens only with an image that breaks R235, which construction refuses. -/
  | outsideStore
  deriving DecidableEq, Repr

/-- Why there is no meaning. -/
inductive Refusal where
  /-- The instruction with this mnemonic is not modelled. No arm of `exec` answers it now. Safe. -/
  | notModelled (mnemonic : String)
  /-- A transaction class of one variant on a live chip of another. No decode yields it (R92). Safe. -/
  | otherVariant
  /-- CONSTRUCT of an image that breaks R235, or that is not held in canonical form (log entry 6). Safe: R235, "This
  spec gives construction no meaning for such an image: the model refuses it". -/
  | malformedImage
  /-- The host presents nothing: the block takes no step of its own (R8), and a run ends after the last transaction
  (R250). Safe. -/
  | noTransaction
  deriving DecidableEq, Repr

/-! ### The state -/

/-- The state of the machine.

`cart` is the live chip, none before a successful construction and after a failed one (R113). `fault` is the record of
R206; `constructErr` is the error of the last construction (R201, R206, `construct_err` of R111). `out` and `target`
are the result of the last transaction (R112, R62) and `req` its word, the values behind the ports of R111 (log entry
5). `pending` is what the host will present, in order (R8, R239; log entry 2). -/
structure State where
  config       : Config
  cart         : Option Cart
  fault        : Option ErrorRecord
  constructErr : Option ErrorRecord
  out          : Option Byte
  target       : Option Target
  req          : Option TxWord
  pending      : List Presented
  deriving DecidableEq, Repr

/-- Before the first construction: no chip (R113, R239), no error (R46), nothing presented (log entries 1, 2, 5). The
register values of R44 and R45 are those CONSTRUCT installs, `m1Reset` and `m4Reset`. -/
def State.reset : State :=
  { config := Config.default, cart := none, fault := none, constructErr := none,
    out := none, target := none, req := none, pending := [] }

end Sys2Proof.Machine
end

