-- ==== Sys2Proof/Machine/Flags.lean ====
section
/-! DEFINITION. The machine has no flags (R41). This file holds what stands in their place: the fields of the two
control registers, `ctrl` of M1 (R23) and `bank_select` of M4 (R35), and the decodes of their modes. -/

namespace Sys2Proof.Machine

/-- `ctrl[1:0]`, `mirroring` (R23). -/
def ctrlMirroring (ctrl : Byte) : BitVec 2 := ctrl.extractLsb' 0 2

/-- `ctrl[3:2]`, `prg_mode` (R23). -/
def ctrlPrgMode (ctrl : Byte) : BitVec 2 := ctrl.extractLsb' 2 2

/-- `ctrl[4]`, `chr_mode` (R23). It is stored and affects nothing (R26). -/
def ctrlChrMode (ctrl : Byte) : Bool := ctrl.getLsbD 4

/-- The names of the `mirroring` values, in encoding order (R24, decision D9). -/
inductive Mirroring where
  | fixedLowerScreen
  | fixedUpperScreen
  | vertical
  | horizontal
  deriving DecidableEq, Repr

/-- R24: 0, 1, 2, 3 in list order (decision D9). -/
def mirroringName (m : BitVec 2) : Mirroring :=
  if m = 0 then .fixedLowerScreen else if m = 1 then .fixedUpperScreen
  else if m = 2 then .vertical else .horizontal

/-- The names of the `chr_mode` values (R26, decision D9). -/
inductive ChrMode where
  | switch8k
  | switchTwo4k
  deriving DecidableEq, Repr

def chrModeName (b : Bool) : ChrMode := if b then .switchTwo4k else .switch8k

/-- The three PRG modes of M1 (R25, R141). -/
inductive PrgMode where
  | switch32k
  | fixFirst
  | fixLast
  deriving DecidableEq, Repr

/-- The decode of `prg_mode` (R25): 0 and 1 are switch-32k, 2 is fix-first, 3 is fix-last. It is written over natural
numbers, wider than the 2-bit field, so it keeps the arm of R203, and its callers raise there. -/
def prgModeOf : Nat → Option PrgMode
  | 0 => some .switch32k
  | 1 => some .switch32k
  | 2 => some .fixFirst
  | 3 => some .fixLast
  | _ => none

/-- `bank_select[2:0]`, `update_select` (R35). -/
def updateSelect (bs : Byte) : BitVec 3 := bs.extractLsb' 0 3

/-- `swap8000` (R177): whether `bank_select[6]` selects swappable-at-8000 (R37), under the polarity of the
configuration. -/
def swap8000 (cfg : Config) (bs : Byte) : Bool :=
  match cfg.m4ModePolarity with
  | .zeroIs8000 => !bs.getLsbD 6
  | .zeroIsC000 => bs.getLsbD 6

end Sys2Proof.Machine
end

