-- ==== Sys2Proof/Machine/Operands.lean ====
section
/-! DEFINITION. Operand assembly: the address and data bits each class uses (R93), the serial assembly of M1 (R94,
R148), the slot an M4 data write reaches (R36, R95), and the bank and offset arithmetic (R72, R141, R145, R177), which
is on natural numbers (R15, D14). -/

namespace Sys2Proof.Machine

/-- `addr & 0x1FFF`: the offset inside an 8 KB bank or RAM (R93). -/
def low13 (addr : Addr) : Nat := (addr &&& 0x1FFF).toNat

/-- `addr & 0x3FFF`: the offset inside a 16 KB bank (R93). -/
def low14 (addr : Addr) : Nat := (addr &&& 0x3FFF).toNat

/-- The offset of an M0 PRG load (R122): `addr & M` with `M` 0x7FFF for an image above 16 KB, else 0x3FFF. -/
def m0PrgOffset (addr : Addr) (prgLen : Nat) : Nat :=
  if 16384 < prgLen then (addr &&& 0x7FFF).toNat else (addr &&& 0x3FFF).toNat

/-- A PRG byte offset, reduced (R72, decision D6). -/
def prgOffset (bank bankSize low prgLen : Nat) : Nat := (bank * bankSize + low) % prgLen

/-- `bank_lo` of R141: the 16 KB bank in $8000-$BFFF. -/
def m1BankLo (mode : PrgMode) (prgBank : Byte) : Nat :=
  match mode with
  | .switch32k => (prgBank &&& 0xFE).toNat
  | .fixFirst => 0
  | .fixLast => prgBank.toNat

/-- `bank_hi` of R141: the 16 KB bank in $C000-$FFFF. -/
def m1BankHi (mode : PrgMode) (prgBank : Byte) (banks16 : Nat) : Nat :=
  match mode with
  | .switch32k => ((prgBank &&& 0xFE) ||| 1).toNat
  | .fixFirst => prgBank.toNat
  | .fixLast => banks16 - 1

/-- The 8 KB bank M4 shows in $8000-$9FFF (R173, R177). -/
def m4BankW8 (swap : Bool) (prgBank0 : Byte) (banks8 : Nat) : Nat :=
  if swap then prgBank0.toNat else banks8 - 2

/-- The 8 KB bank M4 shows in $C000-$DFFF (R175, R177). -/
def m4BankWC (swap : Bool) (prgBank0 : Byte) (banks8 : Nat) : Nat :=
  if swap then banks8 - 2 else prgBank0.toNat

/-- `accum'` of R148: the low data bit ORed in at position `write_count`. -/
def shiftAccum (accum val : Byte) (count : BitVec 3) : Byte := accum ||| ((val &&& 0x01) <<< count.toNat)

/-- `count'` of R148, a number that can be 5. -/
def shiftCount (count : BitVec 3) : Nat := count.toNat + 1

/-- The destination of a write's address window, `addr[14:13]` (R93, R149). -/
def serialDest (addr : Addr) : SerialDest :=
  if addr.extractLsb' 13 2 = (0 : BitVec 2) then .ctrl
  else if addr.extractLsb' 13 2 = (1 : BitVec 2) then .chrBank0
  else if addr.extractLsb' 13 2 = (2 : BitVec 2) then .chrBank1
  else .prgBank

/-- The slot of `update_select` (R36, R181). It is written over natural numbers, wider than the 3-bit field, so it
keeps the arm of R186, and its caller raises there. -/
def slotOf : Nat → Option Slot
  | 0 => some .chr2k0
  | 1 => some .chr2k1
  | 2 => some .chr1k0
  | 3 => some .chr1k1
  | 4 => some .chr1k2
  | 5 => some .chr1k3
  | 6 => some .prgBank0
  | 7 => some .prgBank1
  | _ => none

end Sys2Proof.Machine
end

