-- ==== Sys2Proof/Machine/Ops.lean ====
section
/-! DEFINITION. The shared operations: MemRead and MemWrite over the physical stores (R66, R67), the register writes,
the results of loads and stores (R62, R112), raising an error (R206), and the premise that a chip is live (R113). -/

namespace Sys2Proof.Machine

/-! ### Reset values (R44, R45) -/

/-- M1 right after construction (R44, R232). -/
def m1Reset : M1Regs :=
  { ctrl := 0x0C, chrBank0 := 0, chrBank1 := 0, prgBank := 0, accum := 0, writeCount := 0, prgRam := [], chrRam := [] }

/-- M4 right after construction (R45, R233). -/
def m4Reset : M4Regs :=
  { bankSelect := 0, chr2k0 := 0, chr2k1 := 0, chr1k0 := 0, chr1k1 := 0, chr1k2 := 0, chr1k3 := 0,
    prgBank0 := 0, prgBank1 := 0, prgRam := [] }

/-! ### Physical stores (R60, R66, R67) -/

/-- The byte at `off` of contents of `len` bytes; none outside. -/
def readIn (len : Nat) (m : Memory) (off : Nat) : Option Byte :=
  if off < len then some (Memory.read m off) else none

/-- The contents, of `len` bytes, after a write at `off`; none outside. -/
def writeIn (len : Nat) (m : Memory) (off : Nat) (v : Byte) : Option Memory :=
  if off < len then some (Memory.write m off v) else none

/-- `MemRead(S, off, 1)` (R66). CHR-ROM reads 0x00 at or beyond `CHR_LEN` (R73, decision D5). A RAM is there only on the
chip that owns it (R60). -/
def memRead (c : Cart) (st : PhysStore) (off : Nat) : Option Byte :=
  match st with
  | .prgRom => readIn c.image.prgLen c.image.prg off
  | .chrRom => some (if off < c.image.chrLen then Memory.read c.image.chr off else 0)
  | .prgRam =>
    match c.chip with
    | .m0 => none
    | .m1 r => readIn size8K r.prgRam off
    | .m4 r => readIn size8K r.prgRam off
  | .chrRam =>
    match c.chip with
    | .m0 => none
    | .m1 r => readIn size8K r.chrRam off
    | .m4 _ => none

/-- `MemWrite(S, off, 1, v)` (R67): only a RAM can be written. -/
def memWrite (c : Cart) (st : PhysStore) (off : Nat) (v : Byte) : Option Cart :=
  match st, c.chip with
  | .prgRam, .m1 r => (writeIn size8K r.prgRam off v).map fun m => { c with chip := .m1 { r with prgRam := m } }
  | .prgRam, .m4 r => (writeIn size8K r.prgRam off v).map fun m => { c with chip := .m4 { r with prgRam := m } }
  | .chrRam, .m1 r => (writeIn size8K r.chrRam off v).map fun m => { c with chip := .m1 { r with chrRam := m } }
  | .prgRam, .m0 => none
  | .chrRam, .m0 => none
  | .chrRam, .m4 _ => none
  | .prgRom, _ => none
  | .chrRom, _ => none

/-! ### Register writes -/

/-- The M1 register of a destination. -/
def readDest (r : M1Regs) : SerialDest → Byte
  | .ctrl => r.ctrl
  | .chrBank0 => r.chrBank0
  | .chrBank1 => r.chrBank1
  | .prgBank => r.prgBank

/-- `dest <- v`, the whole 8-bit register (R149). -/
def writeDest (r : M1Regs) (d : SerialDest) (v : Byte) : M1Regs :=
  match d with
  | .ctrl => { r with ctrl := v }
  | .chrBank0 => { r with chrBank0 := v }
  | .chrBank1 => { r with chrBank1 := v }
  | .prgBank => { r with prgBank := v }

/-- A qualifying write's effect on the registers (R148, R149): shift, and on the fifth write commit. -/
def serialShift (r : M1Regs) (d : SerialDest) (val : Byte) : M1Regs :=
  if shiftCount r.writeCount = 5 then
    { writeDest r d (shiftAccum r.accum val r.writeCount) with writeCount := 0, accum := 0 }
  else
    { r with accum := shiftAccum r.accum val r.writeCount, writeCount := BitVec.ofNat 3 (shiftCount r.writeCount) }

/-- A reset write's effect on the registers (R147). -/
def serialReset (r : M1Regs) : M1Regs :=
  { r with writeCount := 0, accum := 0, ctrl := r.ctrl ||| 0x0C }

/-- The value of an M4 slot. -/
def readSlot (r : M4Regs) : Slot → Byte
  | .chr2k0 => r.chr2k0
  | .chr2k1 => r.chr2k1
  | .chr1k0 => r.chr1k0
  | .chr1k1 => r.chr1k1
  | .chr1k2 => r.chr1k2
  | .chr1k3 => r.chr1k3
  | .prgBank0 => r.prgBank0
  | .prgBank1 => r.prgBank1

/-- `slot <- v`, the whole byte (R181 to R184, R39). -/
def writeSlot (r : M4Regs) (sl : Slot) (v : Byte) : M4Regs :=
  match sl with
  | .chr2k0 => { r with chr2k0 := v }
  | .chr2k1 => { r with chr2k1 := v }
  | .chr1k0 => { r with chr1k0 := v }
  | .chr1k1 => { r with chr1k1 := v }
  | .chr1k2 => { r with chr1k2 := v }
  | .chr1k3 => { r with chr1k3 := v }
  | .prgBank0 => { r with prgBank0 := v }
  | .prgBank1 => { r with prgBank1 := v }

/-! ### Results of a transaction (R62, R112) -/

/-- A load ends: it returns `b`, and nothing but the output changes. -/
def loadDone (t : Target) (b : Byte) (s : State) : Host.Outcome State Fault Refusal :=
  .next { s with out := some b, target := some t }

/-- A store ends: it returns nothing, and the chip is `c`. -/
def storeDone (t : Target) (c : Cart) (s : State) : Host.Outcome State Fault Refusal :=
  .next { s with out := none, target := some t, cart := some c }

/-- Target `ZERO`: the out-of-window default of a load, 0x00 (R71). -/
def loadZero (s : State) : Host.Outcome State Fault Refusal := loadDone .zero 0 s

/-- Target `IGNORE`: a store that changes nothing (R71, R62). -/
def storeIgnored (s : State) : Host.Outcome State Fault Refusal :=
  .next { s with out := none, target := some .ignore }

/-- Target `ROM(S, off)` of a load (R62). -/
def loadRom (st : PhysStore) (off : Nat) (c : Cart) (s : State) : Host.Outcome State Fault Refusal :=
  match memRead c st off with
  | some b => loadDone (.rom st off) b s
  | none => .fault .outsideStore

/-- Target `RAM(S, off)` of a load (R62). -/
def loadRam (st : PhysStore) (off : Nat) (c : Cart) (s : State) : Host.Outcome State Fault Refusal :=
  match memRead c st off with
  | some b => loadDone (.ram st off) b s
  | none => .fault .outsideStore

/-- Target `RAM(S, off)` of a store (R62). -/
def storeRam (st : PhysStore) (off : Nat) (v : Byte) (c : Cart) (s : State) : Host.Outcome State Fault Refusal :=
  match memWrite c st off v with
  | some c' => storeDone (.ram st off) c' s
  | none => .fault .outsideStore

/-! ### Errors (R200 to R210) -/

/-- `raise E(info)` (R206): the record is set and the operation ends. `UnreachableState` sets `fault` and changes
nothing else. `UnsupportedMapper` is recorded in the construction result, because there is no chip to hold it, and no
chip exists afterwards (R201, R234); an earlier chip is destroyed with all it held (R236). There is no handler, nothing
is saved, and there is no return operation (R209, R210). -/
def raise (e : ErrorRecord) (s : State) : Host.Outcome State Fault Refusal :=
  match e with
  | .unreachableState _ _ => .next { s with fault := some e }
  | .unsupportedMapper _ =>
    .next { s with cart := none, fault := none, constructErr := some e, out := none, target := none, req := none }

/-! ### The premise of a transaction (R112, R113) -/

/-- A transaction of any variant: stuck after a recorded fault and when no chip is live (R113). -/
def onLive (s : State) (k : Cart → Host.Outcome State Fault Refusal) : Host.Outcome State Fault Refusal :=
  match s.fault with
  | some _ => .fault .faultRecorded
  | none =>
    match s.cart with
    | none => .fault .noLiveChip
    | some c => k c

/-- A transaction class of M0. -/
def onM0 (s : State) (k : Cart → Host.Outcome State Fault Refusal) : Host.Outcome State Fault Refusal :=
  onLive s fun c =>
    match c.chip with
    | .m0 => k c
    | .m1 _ => .refused .otherVariant
    | .m4 _ => .refused .otherVariant

/-- A transaction class of M1. -/
def onM1 (s : State) (k : Cart → M1Regs → Host.Outcome State Fault Refusal) : Host.Outcome State Fault Refusal :=
  onLive s fun c =>
    match c.chip with
    | .m1 r => k c r
    | .m0 => .refused .otherVariant
    | .m4 _ => .refused .otherVariant

/-- A transaction class of M4. -/
def onM4 (s : State) (k : Cart → M4Regs → Host.Outcome State Fault Refusal) : Host.Outcome State Fault Refusal :=
  onLive s fun c =>
    match c.chip with
    | .m4 r => k c r
    | .m0 => .refused .otherVariant
    | .m1 _ => .refused .otherVariant

/-! ### Taking what the host presents (R8, R239) -/

/-- The variant of the live chip. -/
def liveVariant (s : State) : Option Variant :=
  s.cart.map fun c =>
    match c.chip with
    | .m0 => .m0
    | .m1 _ => .m1
    | .m4 _ => .m4

/-- The transaction word of what is presented; a construction has none (R92). -/
def presentedWord : Presented → Option TxWord
  | .word tw => some tw
  | .construct _ => none

/-- The state while the presented operation `p` runs: `p` is taken off `pending`, and its word stands on the request
port (R111). -/
def accept (s : State) (p : Presented) (rest : List Presented) : State :=
  { s with pending := rest, req := presentedWord p }

end Sys2Proof.Machine
end

