-- ==== Sys2Proof/Machine/Factory.lean ====
section
/-! DEFINITION. CONSTRUCT, the Mapper Factory (70_reset_and_hazards.md section 1). -/

namespace Sys2Proof.Machine

/-- The chip of a mapper id with its reset state (R231 to R233); none for every other id (R234). -/
def chipOf (mapperId : Nat) : Option Chip :=
  if mapperId = 0 then some .m0
  else if mapperId = 1 then some (.m1 m1Reset)
  else if mapperId = 4 then some (.m4 m4Reset)
  else none

/-- `CONSTRUCT` (R230): the model refuses an image that breaks R235; an unsupported id raises `UnsupportedMapper`
(R234); else the chip is built with its reset state over the image, and nothing of an earlier chip carries over (R236).
It runs whatever came before, a recorded fault and a failed construction included (R206, R210). -/
def execConstruct (image : RomImage) (s : State) : Host.Outcome State Fault Refusal :=
  if image.canonical && image.lengthOk then
    match chipOf image.mapperId with
    | some chip =>
      .next { s with
        cart := some ⟨image, chip⟩, fault := none, constructErr := none, out := none, target := none, req := none }
    | none => raise (.unsupportedMapper image.mapperId) s
  else .refused .malformedImage

end Sys2Proof.Machine
end

