-- ==== Sys2Proof/Machine/Fixed.lean ====
section
/-! DEFINITION. The instructions of FixedMapping, mapper 0 (41_fixed_mapping.md). -/

namespace Sys2Proof.Machine

/-- `M0.PLD.LOW` (R121): returns 0x00. -/
def execM0PldLow (_addr : Addr) (s : State) : Host.Outcome State Fault Refusal :=
  onM0 s fun _ => loadZero s

/-- `M0.PLD.ROM` (R122): returns `PRG[addr & M]`. -/
def execM0PldRom (addr : Addr) (s : State) : Host.Outcome State Fault Refusal :=
  onM0 s fun c => loadRom .prgRom (m0PrgOffset addr c.image.prgLen) c s

/-- `M0.PST` (R123): nothing. -/
def execM0Pst (_addr : Addr) (_val : Byte) (s : State) : Host.Outcome State Fault Refusal :=
  onM0 s fun _ => storeIgnored s

/-- `M0.CLD` (R124): returns `CHR[addr]`, 0x00 beyond `CHR_LEN`. -/
def execM0Cld (addr : Addr) (s : State) : Host.Outcome State Fault Refusal :=
  onM0 s fun c => loadRom .chrRom addr.toNat c s

/-- `M0.CLD.HIGH_a` (R125), $8000-$FFFF: returns 0x00 (decision D4). -/
def execM0CldHighA (_addr : Addr) (s : State) : Host.Outcome State Fault Refusal :=
  onM0 s fun _ => loadZero s

/-- `M0.CLD.HIGH_b` (R125), $4000-$7FFF: returns 0x00 (decision D4). -/
def execM0CldHighB (_addr : Addr) (s : State) : Host.Outcome State Fault Refusal :=
  onM0 s fun _ => loadZero s

/-- `M0.CLD.HIGH_c` (R125), $2000-$3FFF: returns 0x00 (decision D4). -/
def execM0CldHighC (_addr : Addr) (s : State) : Host.Outcome State Fault Refusal :=
  onM0 s fun _ => loadZero s

/-- `M0.CST` (R126): nothing. -/
def execM0Cst (_addr : Addr) (_val : Byte) (s : State) : Host.Outcome State Fault Refusal :=
  onM0 s fun _ => storeIgnored s

end Sys2Proof.Machine
end

