-- ==== Sys2Proof/Machine/Indexed.lean ====
section
/-! DEFINITION. The instructions of IndexedBanking, mapper 4 (43_indexed_banking.md). -/

namespace Sys2Proof.Machine

/-- A PRG load of an 8 KB window that shows `bank` (R173 to R177). -/
def m4PrgLoad (bank : Nat) (addr : Addr) (c : Cart) (s : State) : Host.Outcome State Fault Refusal :=
  loadRom .prgRom (prgOffset bank size8K (low13 addr) c.image.prgLen) c s

/-- `M4.PLD.LOW_a` (R171), $0000-$3FFF: returns 0x00. -/
def execM4PldLowA (_addr : Addr) (s : State) : Host.Outcome State Fault Refusal :=
  onM4 s fun _ _ => loadZero s

/-- `M4.PLD.LOW_b` (R171), $4000-$5FFF: returns 0x00. -/
def execM4PldLowB (_addr : Addr) (s : State) : Host.Outcome State Fault Refusal :=
  onM4 s fun _ _ => loadZero s

/-- `M4.PLD.RAM` (R172): returns `prg_ram[addr & 0x1FFF]`. -/
def execM4PldRam (addr : Addr) (s : State) : Host.Outcome State Fault Refusal :=
  onM4 s fun c _ => loadRam .prgRam (low13 addr) c s

/-- `M4.PLD.W8` (R173): `prg_banks[0]` or the second-to-last bank, by mode. -/
def execM4PldW8 (addr : Addr) (s : State) : Host.Outcome State Fault Refusal :=
  onM4 s fun c r => m4PrgLoad (m4BankW8 (swap8000 s.config r.bankSelect) r.prgBank0 c.image.prgBanks8) addr c s

/-- `M4.PLD.WA` (R174): `prg_banks[1]`. -/
def execM4PldWA (addr : Addr) (s : State) : Host.Outcome State Fault Refusal :=
  onM4 s fun c r => m4PrgLoad r.prgBank1.toNat addr c s

/-- `M4.PLD.WC` (R175): the second-to-last bank or `prg_banks[0]`, by mode. -/
def execM4PldWC (addr : Addr) (s : State) : Host.Outcome State Fault Refusal :=
  onM4 s fun c r => m4PrgLoad (m4BankWC (swap8000 s.config r.bankSelect) r.prgBank0 c.image.prgBanks8) addr c s

/-- `M4.PLD.WE` (R176): the last bank. -/
def execM4PldWE (addr : Addr) (s : State) : Host.Outcome State Fault Refusal :=
  onM4 s fun c _ => loadRom .prgRom ((c.image.prgBanks8 - 1) * size8K + low13 addr) c s

/-- `M4.PST.LOW_a` (R178), $0000-$3FFF: nothing. -/
def execM4PstLowA (_addr : Addr) (_val : Byte) (s : State) : Host.Outcome State Fault Refusal :=
  onM4 s fun _ _ => storeIgnored s

/-- `M4.PST.LOW_b` (R178), $4000-$5FFF: nothing. -/
def execM4PstLowB (_addr : Addr) (_val : Byte) (s : State) : Host.Outcome State Fault Refusal :=
  onM4 s fun _ _ => storeIgnored s

/-- `M4.PST.RAM` (R179): `prg_ram[addr & 0x1FFF] <- val`. -/
def execM4PstRam (addr : Addr) (val : Byte) (s : State) : Host.Outcome State Fault Refusal :=
  onM4 s fun c _ => storeRam .prgRam (low13 addr) val c s

/-- `M4.PST.SELECT` (R180): `bank_select <- val`. -/
def execM4PstSelect (_addr : Addr) (val : Byte) (s : State) : Host.Outcome State Fault Refusal :=
  onM4 s fun c r => storeDone (.reg .bankSelect) { c with chip := .m4 { r with bankSelect := val } } s

/-- `M4.PST.DATA` (R181 to R184): the slot selected by `bank_select[2:0]` `<- val`. A select value outside 0-7 raises
`UnreachableState` (R186), which no value of the 3-bit field does. -/
def execM4PstData (_addr : Addr) (val : Byte) (s : State) : Host.Outcome State Fault Refusal :=
  onM4 s fun c r =>
    match slotOf (updateSelect r.bankSelect).toNat with
    | some sl => storeDone (.reg (.slot sl)) { c with chip := .m4 (writeSlot r sl val) } s
    | none => raise (.unreachableState .m4PstData (updateSelect r.bankSelect).toNat) s

/-- `M4.PST.HIGH_a` (R185), $A000-$BFFF: accepted, nothing. -/
def execM4PstHighA (_addr : Addr) (_val : Byte) (s : State) : Host.Outcome State Fault Refusal :=
  onM4 s fun _ _ => storeIgnored s

/-- `M4.PST.HIGH_b` (R185), $C000-$FFFF: accepted, nothing. -/
def execM4PstHighB (_addr : Addr) (_val : Byte) (s : State) : Host.Outcome State Fault Refusal :=
  onM4 s fun _ _ => storeIgnored s

/-- `M4.CLD` (R187): returns `CHR[addr]`, 0x00 beyond `CHR_LEN`. -/
def execM4Cld (addr : Addr) (s : State) : Host.Outcome State Fault Refusal :=
  onM4 s fun c _ => loadRom .chrRom addr.toNat c s

/-- `M4.CLD.HIGH_a` (R188), $8000-$FFFF: returns 0x00 (decision D4). -/
def execM4CldHighA (_addr : Addr) (s : State) : Host.Outcome State Fault Refusal :=
  onM4 s fun _ _ => loadZero s

/-- `M4.CLD.HIGH_b` (R188), $4000-$7FFF: returns 0x00 (decision D4). -/
def execM4CldHighB (_addr : Addr) (s : State) : Host.Outcome State Fault Refusal :=
  onM4 s fun _ _ => loadZero s

/-- `M4.CLD.HIGH_c` (R188), $2000-$3FFF: returns 0x00 (decision D4). -/
def execM4CldHighC (_addr : Addr) (s : State) : Host.Outcome State Fault Refusal :=
  onM4 s fun _ _ => loadZero s

/-- `M4.CST` (R189): nothing. -/
def execM4Cst (_addr : Addr) (_val : Byte) (s : State) : Host.Outcome State Fault Refusal :=
  onM4 s fun _ _ => storeIgnored s

end Sys2Proof.Machine
end

