-- ==== Sys2Proof/Machine/Serial.lean ====
section
/-! DEFINITION. The instructions of ShiftRegisterBanking, mapper 1 (42_shift_register_banking.md). -/

namespace Sys2Proof.Machine

/-- A PRG load of a 16 KB window (R143 to R145). `bank` gives the window's bank from the PRG mode; a mode decode outside
its domain raises `UnreachableState` (R203), which no value of the 2-bit field does. -/
def m1PrgLoad (bank : PrgMode → Nat) (addr : Addr) (c : Cart) (r : M1Regs) (s : State) :
    Host.Outcome State Fault Refusal :=
  match prgModeOf (ctrlPrgMode r.ctrl).toNat with
  | some mode => loadRom .prgRom (prgOffset (bank mode) size16K (low14 addr) c.image.prgLen) c s
  | none => raise (.unreachableState .m1PrgMode (ctrlPrgMode r.ctrl).toNat) s

/-- A qualifying write with the destination of its window (R148, R149). -/
def m1Shift (d : SerialDest) (val : Byte) (s : State) : Host.Outcome State Fault Refusal :=
  onM1 s fun c r => storeDone (.reg (.serial d)) { c with chip := .m1 (serialShift r d val) } s

/-- `M1.PLD.LOW` (R142): returns 0x00. -/
def execM1PldLow (_addr : Addr) (s : State) : Host.Outcome State Fault Refusal :=
  onM1 s fun _ _ => loadZero s

/-- `M1.PLD.B8` (R143): the low 16 KB window. -/
def execM1PldB8 (addr : Addr) (s : State) : Host.Outcome State Fault Refusal :=
  onM1 s fun c r => m1PrgLoad (fun mode => m1BankLo mode r.prgBank) addr c r s

/-- `M1.PLD.BC` (R144): the high 16 KB window. -/
def execM1PldBC (addr : Addr) (s : State) : Host.Outcome State Fault Refusal :=
  onM1 s fun c r => m1PrgLoad (fun mode => m1BankHi mode r.prgBank c.image.prgBanks16) addr c r s

/-- `M1.PST.LOW` (R146): nothing. -/
def execM1PstLow (_addr : Addr) (_val : Byte) (s : State) : Host.Outcome State Fault Refusal :=
  onM1 s fun _ _ => storeIgnored s

/-- `M1.PST.RESET` (R147): clears the serial state and ORs 0x0C into `ctrl`. -/
def execM1PstReset (addr : Addr) (_val : Byte) (s : State) : Host.Outcome State Fault Refusal :=
  onM1 s fun c r => storeDone (.reg (.serial (serialDest addr))) { c with chip := .m1 (serialReset r) } s

/-- `M1.PST.SHIFT.CTRL` (R150): shifts in `val[0]`; the fifth write commits to `ctrl`. -/
def execM1PstShiftCtrl (_addr : Addr) (val : Byte) (s : State) : Host.Outcome State Fault Refusal :=
  m1Shift .ctrl val s

/-- `M1.PST.SHIFT.CHR0` (R151): shifts in `val[0]`; the fifth write commits to `chr_bank_0`. -/
def execM1PstShiftChr0 (_addr : Addr) (val : Byte) (s : State) : Host.Outcome State Fault Refusal :=
  m1Shift .chrBank0 val s

/-- `M1.PST.SHIFT.CHR1` (R152): shifts in `val[0]`; the fifth write commits to `chr_bank_1`. -/
def execM1PstShiftChr1 (_addr : Addr) (val : Byte) (s : State) : Host.Outcome State Fault Refusal :=
  m1Shift .chrBank1 val s

/-- `M1.PST.SHIFT.PRG` (R153): shifts in `val[0]`; the fifth write commits to `prg_bank`. -/
def execM1PstShiftPrg (_addr : Addr) (val : Byte) (s : State) : Host.Outcome State Fault Refusal :=
  m1Shift .prgBank val s

/-- `M1.CLD` (R156): returns `chr_ram[addr]`. -/
def execM1Cld (addr : Addr) (s : State) : Host.Outcome State Fault Refusal :=
  onM1 s fun c _ => loadRam .chrRam addr.toNat c s

/-- `M1.CLD.HIGH_a` (R157), $8000-$FFFF: returns 0x00 (decision D4). -/
def execM1CldHighA (_addr : Addr) (s : State) : Host.Outcome State Fault Refusal :=
  onM1 s fun _ _ => loadZero s

/-- `M1.CLD.HIGH_b` (R157), $4000-$7FFF: returns 0x00 (decision D4). -/
def execM1CldHighB (_addr : Addr) (s : State) : Host.Outcome State Fault Refusal :=
  onM1 s fun _ _ => loadZero s

/-- `M1.CLD.HIGH_c` (R157), $2000-$3FFF: returns 0x00 (decision D4). -/
def execM1CldHighC (_addr : Addr) (s : State) : Host.Outcome State Fault Refusal :=
  onM1 s fun _ _ => loadZero s

/-- `M1.CST` (R158): `chr_ram[addr] <- val`. -/
def execM1Cst (addr : Addr) (val : Byte) (s : State) : Host.Outcome State Fault Refusal :=
  onM1 s fun c _ => storeRam .chrRam addr.toNat val c s

/-- `M1.CST.HIGH_a` (R159), $8000-$FFFF: nothing (decision D4). -/
def execM1CstHighA (_addr : Addr) (_val : Byte) (s : State) : Host.Outcome State Fault Refusal :=
  onM1 s fun _ _ => storeIgnored s

/-- `M1.CST.HIGH_b` (R159), $4000-$7FFF: nothing (decision D4). -/
def execM1CstHighB (_addr : Addr) (_val : Byte) (s : State) : Host.Outcome State Fault Refusal :=
  onM1 s fun _ _ => storeIgnored s

/-- `M1.CST.HIGH_c` (R159), $2000-$3FFF: nothing (decision D4). -/
def execM1CstHighC (_addr : Addr) (_val : Byte) (s : State) : Host.Outcome State Fault Refusal :=
  onM1 s fun _ _ => storeIgnored s

end Sys2Proof.Machine
end

