-- ==== Sys2Proof/Machine/Dispatch.lean ====
section
/-! DEFINITION. The dispatch: one meaning per instruction. -/

namespace Sys2Proof.Machine

def exec (i : Instr) (s : State) : Host.Outcome State Fault Refusal :=
  match i with
  | .m0PldLow addr => Sys2Proof.Machine.execM0PldLow addr s
  | .m0PldRom addr => Sys2Proof.Machine.execM0PldRom addr s
  | .m0Pst addr val => Sys2Proof.Machine.execM0Pst addr val s
  | .m0Cld addr => Sys2Proof.Machine.execM0Cld addr s
  | .m0CldHighA addr => Sys2Proof.Machine.execM0CldHighA addr s
  | .m0CldHighB addr => Sys2Proof.Machine.execM0CldHighB addr s
  | .m0CldHighC addr => Sys2Proof.Machine.execM0CldHighC addr s
  | .m0Cst addr val => Sys2Proof.Machine.execM0Cst addr val s
  | .m1PldLow addr => Sys2Proof.Machine.execM1PldLow addr s
  | .m1PldB8 addr => Sys2Proof.Machine.execM1PldB8 addr s
  | .m1PldBC addr => Sys2Proof.Machine.execM1PldBC addr s
  | .m1PstLow addr val => Sys2Proof.Machine.execM1PstLow addr val s
  | .m1PstReset addr val => Sys2Proof.Machine.execM1PstReset addr val s
  | .m1PstShiftCtrl addr val => Sys2Proof.Machine.execM1PstShiftCtrl addr val s
  | .m1PstShiftChr0 addr val => Sys2Proof.Machine.execM1PstShiftChr0 addr val s
  | .m1PstShiftChr1 addr val => Sys2Proof.Machine.execM1PstShiftChr1 addr val s
  | .m1PstShiftPrg addr val => Sys2Proof.Machine.execM1PstShiftPrg addr val s
  | .m1Cld addr => Sys2Proof.Machine.execM1Cld addr s
  | .m1CldHighA addr => Sys2Proof.Machine.execM1CldHighA addr s
  | .m1CldHighB addr => Sys2Proof.Machine.execM1CldHighB addr s
  | .m1CldHighC addr => Sys2Proof.Machine.execM1CldHighC addr s
  | .m1Cst addr val => Sys2Proof.Machine.execM1Cst addr val s
  | .m1CstHighA addr val => Sys2Proof.Machine.execM1CstHighA addr val s
  | .m1CstHighB addr val => Sys2Proof.Machine.execM1CstHighB addr val s
  | .m1CstHighC addr val => Sys2Proof.Machine.execM1CstHighC addr val s
  | .m4PldLowA addr => Sys2Proof.Machine.execM4PldLowA addr s
  | .m4PldLowB addr => Sys2Proof.Machine.execM4PldLowB addr s
  | .m4PldRam addr => Sys2Proof.Machine.execM4PldRam addr s
  | .m4PldW8 addr => Sys2Proof.Machine.execM4PldW8 addr s
  | .m4PldWA addr => Sys2Proof.Machine.execM4PldWA addr s
  | .m4PldWC addr => Sys2Proof.Machine.execM4PldWC addr s
  | .m4PldWE addr => Sys2Proof.Machine.execM4PldWE addr s
  | .m4PstLowA addr val => Sys2Proof.Machine.execM4PstLowA addr val s
  | .m4PstLowB addr val => Sys2Proof.Machine.execM4PstLowB addr val s
  | .m4PstRam addr val => Sys2Proof.Machine.execM4PstRam addr val s
  | .m4PstSelect addr val => Sys2Proof.Machine.execM4PstSelect addr val s
  | .m4PstData addr val => Sys2Proof.Machine.execM4PstData addr val s
  | .m4PstHighA addr val => Sys2Proof.Machine.execM4PstHighA addr val s
  | .m4PstHighB addr val => Sys2Proof.Machine.execM4PstHighB addr val s
  | .m4Cld addr => Sys2Proof.Machine.execM4Cld addr s
  | .m4CldHighA addr => Sys2Proof.Machine.execM4CldHighA addr s
  | .m4CldHighB addr => Sys2Proof.Machine.execM4CldHighB addr s
  | .m4CldHighC addr => Sys2Proof.Machine.execM4CldHighC addr s
  | .m4Cst addr val => Sys2Proof.Machine.execM4Cst addr val s
  | .construct image => Sys2Proof.Machine.execConstruct image s

end Sys2Proof.Machine
end

