-- ==== Sys2Proof/Machine/Step.lean ====
section
/-! DEFINITION. The step (R9, R112): one presented operation, whole. -/

namespace Sys2Proof.Machine

/-- `Step` of R112: the next presented operation is decoded for the live chip and run. With nothing presented the block
takes no step (R8); with no live chip a transaction has none (R113). -/
def step (s : State) : Host.Outcome State Fault Refusal :=
  match s.pending with
  | [] => .refused .noTransaction
  | p :: rest =>
    match decode (liveVariant s) p with
    | .ok i => exec i (accept s p rest)
    | .error .noLiveVariant => .fault .noLiveChip

/-- An M4 cartridge of the smallest size, all bytes 0x00, on which a table word runs when no M4 chip is live (log
entry 4). `State.reset` does not hold it. -/
def fetchCart : Cart :=
  { image := { mapperId := 4, prgLen := size16K, prg := [], chrLen := 0, chr := [], headerBanks := none, mirrorHint := 0 },
    chip := .m4 m4Reset }

/-- `s` with the table word `w` presented next, on a live chip of `tableVariant` without a recorded fault, so that the
next step runs the instruction `decodeTableWord` reads (log entries 3 and 4). A number of more than 26 bits is no
transaction word and is not presented. -/
def State.withFetchWord (s : State) (_nbits w : Nat) : State :=
  if w < 2 ^ 26 then
    { s with
      pending := .word (BitVec.ofNat 26 w) :: s.pending
      fault := none
      cart := if liveVariant s = some tableVariant then s.cart else some fetchCart }
  else s

end Sys2Proof.Machine
end

