-- ==== Sys2Proof/Machine/Ports.lean ====
section
/-! DEFINITION. The ports of R111 as views of the state. The request inputs show what the host presents next; the
outputs show the last operation. The straps `cfg_mapper_id`, `cfg_prg_len`, `cfg_chr_len` are fields of the ROM image. -/

namespace Sys2Proof.Machine

/-- `construct`: a construction is presented. -/
def portConstruct (s : State) : Bool :=
  match s.pending with
  | .construct _ :: _ => true
  | _ => false

/-- The word presented next, if a transaction is presented. -/
def portRequest (s : State) : Option TxWord :=
  match s.pending with
  | .word tw :: _ => some tw
  | _ => none

/-- `req_valid`: a transaction is presented this step. -/
def portReqValid (s : State) : Bool := (portRequest s).isSome

/-- `req_space`, `TW[25]`. -/
def portReqSpace (s : State) : Option Space := (portRequest s).map spaceOf

/-- `req_rw`, `TW[24]`. -/
def portReqRw (s : State) : Option Dir := (portRequest s).map dirOf

/-- `req_addr`, `TW[23:8]`. -/
def portReqAddr (s : State) : Option Addr := (portRequest s).map addrOf

/-- `req_wdata`, `TW[7:0]`. -/
def portReqWdata (s : State) : Option Byte := (portRequest s).map valOf

/-- `rsp_rdata`: the byte a load returned; driven 0 for a store (R111). -/
def portRspRdata (s : State) : Byte := s.out.getD 0

/-- `tgt_kind`: 0 no memory access, 1 PRG_ROM, 2 CHR_ROM, 3 PRG_RAM, 4 CHR_RAM. -/
def tgtKindOf (t : Target) : BitVec 3 :=
  let kind : PhysStore → BitVec 3 := fun st =>
    match st with
    | .prgRom => 1
    | .chrRom => 2
    | .prgRam => 3
    | .chrRam => 4
  match t with
  | .zero => 0
  | .ignore => 0
  | .reg _ => 0
  | .rom st _ => kind st
  | .ram st _ => kind st

/-- `tgt_kind` of the last transaction. -/
def portTgtKind (s : State) : Option (BitVec 3) := s.target.map tgtKindOf

/-- `tgt_off`: the byte offset in the selected store; none when no store is accessed. -/
def portTgtOff (s : State) : Option Nat :=
  match s.target with
  | some (.rom _ off) => some off
  | some (.ram _ off) => some off
  | _ => none

/-- `tgt_we`: 1 for a RAM store. A load returns a byte and a store none. -/
def portTgtWe (s : State) : Bool :=
  match s.target, s.out with
  | some (.ram _ _), none => true
  | _, _ => false

/-- `tgt_wdata`, which is `req_wdata` of the last transaction. -/
def portTgtWdata (s : State) : Option Byte := s.req.map valOf

/-- `tgt_rdata`: the byte the accessed store returned, routed to `rsp_rdata`. -/
def portTgtRdata (s : State) : Option Byte :=
  match s.target with
  | some (.rom _ _) => s.out
  | some (.ram _ _) => s.out
  | _ => none

/-- `mirroring` (R161): `ctrl[1:0]` on M1, not driven on M0 and M4. -/
def portMirroring (s : State) : Option (BitVec 2) :=
  match s.cart with
  | some ⟨_, .m1 r⟩ => some (ctrlMirroring r.ctrl)
  | _ => none

/-- The numeric codes of R200 (decision D10). -/
def errorCode : Option ErrorRecord → BitVec 2
  | none => 0
  | some (.unsupportedMapper _) => 1
  | some (.unreachableState _ _) => 2

/-- `fault` (R111, R206). -/
def portFault (s : State) : BitVec 2 := errorCode s.fault

/-- `construct_err` (R111). -/
def portConstructErr (s : State) : BitVec 2 := errorCode s.constructErr

end Sys2Proof.Machine
end

