-- ==== Sys2Proof/Safety.lean ====
section
/-! DEFINITION. What statements say of states: which chip is live, the invariant of the machine, and its parts. -/

namespace Sys2Proof.Machine

/-- The live chip is M0 with image `img`, and no fault is recorded (R112, R113). -/
abbrev State.liveM0 (s : State) (img : RomImage) : Prop := s.fault = none ∧ s.cart = some ⟨img, .m0⟩

/-- The live chip is M1 with image `img` and registers `r`, and no fault is recorded. -/
abbrev State.liveM1 (s : State) (img : RomImage) (r : M1Regs) : Prop :=
  s.fault = none ∧ s.cart = some ⟨img, .m1 r⟩

/-- The live chip is M4 with image `img` and registers `r`, and no fault is recorded. -/
abbrev State.liveM4 (s : State) (img : RomImage) (r : M4Regs) : Prop :=
  s.fault = none ∧ s.cart = some ⟨img, .m4 r⟩

/-- A RAM of 8 KB in canonical form. -/
def ramOk (m : Memory) : Bool := Memory.wf m && Memory.below size8K m

/-- R47 (a), (b), (c), and the form of the two RAMs. -/
def M1Regs.inv (r : M1Regs) : Bool :=
  decide (r.writeCount.toNat ≤ 4) && decide (r.accum.toNat < 2 ^ r.writeCount.toNat) &&
  decide (r.ctrl.toNat ≤ 0x1F) && decide (r.chrBank0.toNat ≤ 0x1F) &&
  decide (r.chrBank1.toNat ≤ 0x1F) && decide (r.prgBank.toNat ≤ 0x1F) && ramOk r.prgRam && ramOk r.chrRam

/-- R48: nothing beyond the widths, but the form of the RAM. -/
def M4Regs.inv (r : M4Regs) : Bool := ramOk r.prgRam

/-- The registers' invariant, and the variant is the one of the image's mapper id (R2, R20). -/
def chipInv (mapperId : Nat) : Chip → Bool
  | .m0 => decide (mapperId = 0)
  | .m1 r => decide (mapperId = 1) && r.inv
  | .m4 r => decide (mapperId = 4) && r.inv

/-- A live chip owns an image that construction accepts (R235), and its registers meet their invariant. -/
def Cart.inv (c : Cart) : Bool := c.image.canonical && c.image.lengthOk && chipInv c.image.mapperId c.chip

/-- The invariant of the machine: the live chip meets its invariant, no fault is recorded (R202, R203), and after a
failed construction there is no chip (R201, R234). -/
def State.inv (s : State) : Bool :=
  s.fault.isNone &&
  (match s.cart with
   | none => true
   | some c => c.inv && s.constructErr.isNone)

/-- The byte at an offset of a physical store of the live chip (`MemRead`, R66), none where there is no live chip, the chip
has no such store or the offset lies outside it: the view of memory the frame statements read before and after. -/
def State.ramByte (s : State) (st : PhysStore) (off : Nat) : Option Byte :=
  match s.cart with
  | none => none
  | some c => memRead c st off

end Sys2Proof.Machine
end

