-- ==== Sys2Proof/Certificates/Slice0/Obligations.lean ====
section
/-! DEFINITION. The statements for the provers. A statement that rests on a decision or an inference the spec marks as its
own, or on a log entry, says so in its docstring. -/

open Sys2Proof Sys2Proof.Machine

/-! ### Encoding and decoding -/

/-- Words of spec/96_test_programs.md section 2 decode to the classes that section names, each on its own chip. -/
def Obligations.SpecWordsDecode : Prop :=
  decode (some .m0) (.word 0x07FFF00) = .ok (.m0PldLow 0x7FFF) ∧
  decode (some .m0) (.word 0x08000FF) = .ok (.m0PldRom 0x8000) ∧
  decode (some .m0) (.word 0x2400000) = .ok (.m0CldHighB 0x4000) ∧
  decode (some .m0) (.word 0x3FFFF01) = .ok (.m0Cst 0xFFFF 0x01) ∧
  decode (some .m1) (.word 0x0BFFF00) = .ok (.m1PldB8 0xBFFF) ∧
  decode (some .m1) (.word 0x1FFFFFF) = .ok (.m1PstReset 0xFFFF 0xFF) ∧
  decode (some .m1) (.word 0x1FFFF7F) = .ok (.m1PstShiftPrg 0xFFFF 0x7F) ∧
  decode (some .m1) (.word 0x31FFF80) = .ok (.m1Cst 0x1FFF 0x80) ∧
  decode (some .m4) (.word 0x05FFF00) = .ok (.m4PldLowB 0x5FFF) ∧
  decode (some .m4) (.word 0x19FFE00) = .ok (.m4PstSelect 0x9FFE 0x00) ∧
  decode (some .m4) (.word 0x1800146) = .ok (.m4PstData 0x8001 0x46) ∧
  decode (some .m4) (.word 0x1A00100) = .ok (.m4PstHighA 0xA001 0x00)

/-- Decoding an encoded well-formed instruction gives it back, for every instruction: a transaction on the chip of its
variant, a construction whatever is live. The packing of the word is the spec's own (R91, decision D2). -/
def Obligations.DecodeOfEncodeIsTheInstruction : Prop :=
  ∀ (i : Instr) (live : Option Variant), i.wf = true → (i.variant = none ∨ live = i.variant) →
    decode live (encode i) = .ok i

/-- Every word decodes on every variant, to a well-formed instruction of that variant whose encoding is the word itself,
with the data field of a load cleared (R91: ignored for loads, canonically 0, decision D20). -/
def Obligations.EncodeOfDecodeIsTheWord : Prop :=
  ∀ (v : Variant) (tw : TxWord), ∃ i, decode (some v) (.word tw) = .ok i ∧ i.wf = true ∧ i.variant = some v ∧
    encode i = .word (if dirOf tw = .load then tw &&& 0x3FFFF00 else tw)

/-- R97, as the opcode table has it: for every variant and every word exactly one row `(TW & mask) == match` holds, and
it is the row of the decoded instruction. R97 is the spec's derivation from R96. -/
def Obligations.ExactlyOneTableRowMatches : Prop :=
  ∀ (v : Variant) (tw : TxWord), ∃ i, decode (some v) (.word tw) = .ok i ∧ matchingRows v tw = [i.mnemonic]

/-! ### The step -/

/-- R112 as the model has it: what is presented next is decoded for the live chip and run, taken off `pending` and its
word shown on the request port (log entries 2 and 5), everything else being as it was. -/
def Obligations.StepRunsTheDecodedInstruction : Prop :=
  ∀ (s : State) (p : Presented) (rest : List Presented) (i : Instr),
    s.pending = p :: rest → decode (liveVariant s) p = .ok i →
    step s = exec i { s with pending := rest, req := (match p with | .word tw => some tw | .construct _ => none) }

/-- R113 (decision D25): with no live chip, or after a recorded fault, no transaction has a step. The model names the
two stuck cases (log entry 19). -/
def Obligations.NoLiveChipNoTransaction : Prop :=
  ∀ (s : State) (tw : TxWord) (rest : List Presented), s.pending = .word tw :: rest →
    (s.cart = none → step s = .fault .noLiveChip) ∧
    (∀ c e, s.cart = some c → s.fault = some e → step s = .fault .faultRecorded)

/-- R61 and R204: on a live chip whose image construction accepts, with no fault recorded, every 26-bit word has a step;
the step records no error, a load returns a byte and a store returns nothing. -/
def Obligations.EveryTransactionHasAStep : Prop :=
  ∀ (s : State) (c : Cart) (tw : TxWord) (rest : List Presented),
    s.fault = none → s.cart = some c → c.image.lengthOk = true → s.pending = .word tw :: rest →
    ∃ t, step s = .next t ∧ t.fault = none ∧ t.constructErr = s.constructErr ∧ t.pending = rest ∧
      (t.out.isSome = true ↔ dirOf tw = .load)

/-- R202, R203: in no state at all does a transaction record a fault, whatever its registers hold. -/
def Obligations.NoTransactionReachesUnreachableState : Prop :=
  ∀ (s t : State) (tw : TxWord) (rest : List Presented),
    s.pending = .word tw :: rest → step s = .next t → s.fault = none ∧ t.fault = none

/-- A table word placed by `withFetchWord` is the instruction `decodeTableWord` reads, it is well formed, and the very next
step runs it, to a next state, on a live M4 chip, what else was presented staying behind it (log entries 3 and 4; the
premise that a live image is one construction accepts is part of the invariant every step keeps). -/
def Obligations.FetchedTableWordRunsNext : Prop :=
  ∀ (s : State) (nbits w : Nat), s.inv = true → w < 2 ^ 26 →
    ∃ i s' t, decodeTableWord nbits w = some i ∧ i.wf = true ∧ step (s.withFetchWord nbits w) = exec i s' ∧
      s'.pending = s.pending ∧ liveVariant s' = some .m4 ∧ exec i s' = .next t

/-! ### Invariants -/

/-- The invariant holds of the state before the first construction (log entry 1). -/
def Obligations.ResetMeetsTheInvariant : Prop := State.reset.inv = true

/-- Every step keeps the invariant: M1's serial state (R47 a, b) and its four registers below 0x20 (R47 c), both RAMs in
canonical form inside 8 KB, the image one that construction accepts (R235), the variant the one of the mapper id (R20),
no fault recorded (R202, R203), no chip after a failed construction (R234). R47 is the spec's derivation. -/
def Obligations.StepKeepsTheInvariant : Prop :=
  ∀ s t : State, s.inv = true → step s = .next t → t.inv = true

/-- R47 (the spec's derivation): a transaction on M1 keeps (a), (b), (c), and (d): `write_count` and `accum` become 0
together at a commit or a reset write, a PRG store at or above $8000 with `val[7]` set or as the fifth of its sequence, and
at no other transaction does either decrease. A transaction that is no PRG store at or above $8000 leaves them and the
four registers as they were (R149, R154). -/
def Obligations.SerialSequenceNeverGoesBack : Prop :=
  ∀ (s t : State) (img img' : RomImage) (r r' : M1Regs) (tw : TxWord) (rest : List Presented) (isPort endsSequence : Bool),
    s.liveM1 img r → r.inv = true → s.pending = .word tw :: rest → step s = .next t →
    t.cart = some ⟨img', .m1 r'⟩ →
    (isPort = true ↔ dirOf tw = .store ∧ spaceOf tw = .prg ∧ 0x8000 ≤ (addrOf tw).toNat) →
    (endsSequence = true ↔ isPort = true ∧ (0x80 ≤ (valOf tw).toNat ∨ r.writeCount = 4)) →
    r'.writeCount.toNat ≤ 4 ∧ r'.accum.toNat < 2 ^ r'.writeCount.toNat ∧
    r'.ctrl.toNat ≤ 0x1F ∧ r'.chrBank0.toNat ≤ 0x1F ∧ r'.chrBank1.toNat ≤ 0x1F ∧ r'.prgBank.toNat ≤ 0x1F ∧
    (if endsSequence then r'.writeCount = 0 ∧ r'.accum = 0
     else r.writeCount.toNat ≤ r'.writeCount.toNat ∧ r.accum.toNat ≤ r'.accum.toNat) ∧
    (isPort = false → r'.writeCount = r.writeCount ∧ r'.accum = r.accum ∧ r'.ctrl = r.ctrl ∧
      r'.chrBank0 = r.chrBank0 ∧ r'.chrBank1 = r.chrBank1 ∧ r'.prgBank = r.prgBank)

/-! ### Construction and errors -/

/-- R231, R232, R233 with R44, R45: construction of a supported image builds the chip of the mapper id with every register
at its reset value and all RAM bytes 0x00, and leaves no fault recorded, whatever the machine held. -/
def Obligations.ConstructBuildsTheChipAtReset : Prop :=
  ∀ (img : RomImage) (s : State), img.canonical = true → img.lengthOk = true →
    (img.mapperId = 0 → ∃ t, exec (.construct img) s = .next t ∧ t.cart = some ⟨img, .m0⟩ ∧ t.fault = none) ∧
    (img.mapperId = 1 → ∃ t, ∃ prgRam chrRam : Memory, exec (.construct img) s = .next t ∧ t.fault = none ∧
      (∀ k, Memory.read prgRam k = 0) ∧ (∀ k, Memory.read chrRam k = 0) ∧
      t.cart = some ⟨img, .m1 { ctrl := 0x0C, chrBank0 := 0, chrBank1 := 0, prgBank := 0, accum := 0, writeCount := 0,
                                prgRam := prgRam, chrRam := chrRam }⟩) ∧
    (img.mapperId = 4 → ∃ t, ∃ prgRam : Memory, exec (.construct img) s = .next t ∧ t.fault = none ∧
      (∀ k, Memory.read prgRam k = 0) ∧
      t.cart = some ⟨img, .m4 { bankSelect := 0, chr2k0 := 0, chr2k1 := 0, chr1k0 := 0, chr1k1 := 0, chr1k2 := 0,
                                chr1k3 := 0, prgBank0 := 0, prgBank1 := 0, prgRam := prgRam }⟩)

/-- R234: any id but 0, 1 and 4 fails with UnsupportedMapper; no chip exists afterwards, an earlier one included (log entry
12), and no transaction has a step (decision D25; the name of the stuck case is log entry 19). The offending id is kept in
the construction result (R201; R206, decision D21; log entry 12). -/
def Obligations.UnsupportedMapperLeavesNoChip : Prop :=
  ∀ (img : RomImage) (s : State), img.canonical = true → img.lengthOk = true →
    img.mapperId ≠ 0 → img.mapperId ≠ 1 → img.mapperId ≠ 4 →
    ∃ t, exec (.construct img) s = .next t ∧ t.cart = none ∧
      t.constructErr = some (.unsupportedMapper img.mapperId) ∧
      ∀ (tw : TxWord) (rest : List Presented), step { t with pending := .word tw :: rest } = .fault .noLiveChip

/-- R235 (decisions D11, D12): an image whose `PRG_LEN` is zero or no multiple of 16384, or whose header bank count
disagrees, is refused whatever its mapper id, and no other image in canonical form is (log entry 13). -/
def Obligations.MalformedImageIsRefused : Prop :=
  ∀ (img : RomImage) (s : State), img.canonical = true →
    (exec (.construct img) s = .refused .malformedImage ↔
      (img.prgLen = 0 ∨ img.prgLen % 16384 ≠ 0 ∨ ∃ n, img.headerBanks = some n ∧ n ≠ img.prgLen / 16384))

/-- R236 (decision D19): nothing of the earlier machine carries over, a recorded fault and a failed construction
included (R206, R210): two machines that differ in anything but the configuration and what is presented next are the
same after a construction. It keeps those two, clears the fault record and the port latches (log entry 5), and
`construct_err` tells whether there is a chip (decision D10, log entry 12). -/
def Obligations.ReconstructionCarriesNothingOver : Prop :=
  ∀ (img : RomImage) (s t : State), s.config = t.config → s.pending = t.pending →
    exec (.construct img) s = exec (.construct img) t ∧
    ∀ u, exec (.construct img) s = .next u →
      u.config = s.config ∧ u.pending = s.pending ∧ u.fault = none ∧ u.out = none ∧ u.target = none ∧ u.req = none ∧
      portConstructErr u = (if u.cart.isSome then 0 else 1)

/-- R206 (decision D21): raising UnreachableState sets the record and changes nothing else, the port `fault` of R111 shows
its code 2 (R200, decision D10; log entry 17), and then no transaction has a step on the live chip (R113, decision D25; the
name of the stuck case is log entry 19). -/
def Obligations.RaisedUnreachableStateIsSticky : Prop :=
  ∀ (s : State) (c : Cart) (site : DecodeSite) (value : Nat), s.cart = some c →
    raise (.unreachableState site value) s = .next { s with fault := some (.unreachableState site value) } ∧
    portFault { s with fault := some (.unreachableState site value) } = 2 ∧
    ∀ (tw : TxWord) (rest : List Presented),
      step { s with fault := some (.unreachableState site value), pending := .word tw :: rest } = .fault .faultRecorded

/-- R238 (the spec's derivation), the M1 rows: what loads see right after construction. -/
def Obligations.M1LoadsAfterConstruction : Prop :=
  ∀ (img : RomImage) (s t : State) (addr : Addr),
    img.canonical = true → img.lengthOk = true → img.mapperId = 1 → exec (.construct img) s = .next t →
    (∃ u, exec (.m1PldB8 addr) t = .next u ∧ u.out = some (Memory.read img.prg (addr.toNat % 16384))) ∧
    (∃ u, exec (.m1PldBC addr) t = .next u ∧
      u.out = some (Memory.read img.prg (img.prgLen - 16384 + addr.toNat % 16384))) ∧
    (addr.toNat < 0x2000 → ∃ u, exec (.m1Cld addr) t = .next u ∧ u.out = some 0)

/-- R238 (the spec's derivation), the M4 rows: what loads see right after construction, under the default polarity
(decision D8, log entry 7) and with the bank count in 8 KB units (decision D7). -/
def Obligations.M4LoadsAfterConstruction : Prop :=
  ∀ (img : RomImage) (s t : State) (addr : Addr),
    img.canonical = true → img.lengthOk = true → img.mapperId = 4 → s.config.m4ModePolarity = .zeroIs8000 →
    exec (.construct img) s = .next t →
    (∃ u, exec (.m4PldRam addr) t = .next u ∧ u.out = some 0) ∧
    (∃ u, exec (.m4PldW8 addr) t = .next u ∧ u.out = some (Memory.read img.prg (addr.toNat % 8192))) ∧
    (∃ u, exec (.m4PldWA addr) t = .next u ∧ u.out = some (Memory.read img.prg (addr.toNat % 8192))) ∧
    (∃ u, exec (.m4PldWC addr) t = .next u ∧
      u.out = some (Memory.read img.prg (img.prgLen - 16384 + addr.toNat % 8192))) ∧
    (∃ u, exec (.m4PldWE addr) t = .next u ∧
      u.out = some (Memory.read img.prg (img.prgLen - 8192 + addr.toNat % 8192)))

/-! ### M0, FixedMapping -/

/-- R121: a PRG load below $8000 returns 0x00 and changes nothing but the output. -/
def Obligations.M0LoadBelow8000ReadsZero : Prop :=
  ∀ (s : State) (img : RomImage) (addr : Addr), s.liveM0 img →
    ∃ tgt, exec (.m0PldLow addr) s = .next { s with out := some 0, target := tgt }

/-- R122: a PRG load at or above $8000 returns `PRG[addr & M]`, changes nothing but the output, and the offset lies inside
the image. -/
def Obligations.M0LoadFoldsTheAddress : Prop :=
  ∀ (s : State) (img : RomImage) (addr : Addr), s.liveM0 img → img.lengthOk = true →
    ∃ off tgt, off = (if 16384 < img.prgLen then addr.toNat % 32768 else addr.toNat % 16384) ∧ off < img.prgLen ∧
      exec (.m0PldRom addr) s = .next { s with out := some (Memory.read img.prg off), target := tgt }

/-- R123, R126: every store on M0 does nothing and returns nothing. -/
def Obligations.M0StoresDoNothing : Prop :=
  ∀ (s : State) (img : RomImage) (addr : Addr) (val : Byte), s.liveM0 img →
    ∀ i ∈ [Instr.m0Pst addr val, .m0Cst addr val], ∃ tgt, exec i s = .next { s with out := none, target := tgt }

/-- R124 and R187: a CHR load of M0 or M4 in the window returns `CHR[addr]` by raw address, and 0x00 at or beyond
`CHR_LEN` (R73, decision D5). -/
def Obligations.ChrRomIsReadByRawAddress : Prop :=
  ∀ (s : State) (img : RomImage) (r : M4Regs) (addr : Addr),
    (s.liveM0 img → exec (.m0Cld addr) s = .next { s with
      out := some (if addr.toNat < img.chrLen then Memory.read img.chr addr.toNat else 0)
      target := some (.rom .chrRom addr.toNat) }) ∧
    (s.liveM4 img r → exec (.m4Cld addr) s = .next { s with
      out := some (if addr.toNat < img.chrLen then Memory.read img.chr addr.toNat else 0)
      target := some (.rom .chrRom addr.toNat) })

/-- R125, R157, R188 (R74, decision D4): a CHR load at or above $2000 returns 0x00 on every chip, in each of its three
table rows. -/
def Obligations.ChrLoadAbove2000ReadsZero : Prop :=
  ∀ (s : State) (img : RomImage) (r1 : M1Regs) (r4 : M4Regs) (addr : Addr),
    (s.liveM0 img → ∀ i ∈ [Instr.m0CldHighA addr, .m0CldHighB addr, .m0CldHighC addr],
      exec i s = .next { s with out := some 0, target := some .zero }) ∧
    (s.liveM1 img r1 → ∀ i ∈ [Instr.m1CldHighA addr, .m1CldHighB addr, .m1CldHighC addr],
      exec i s = .next { s with out := some 0, target := some .zero }) ∧
    (s.liveM4 img r4 → ∀ i ∈ [Instr.m4CldHighA addr, .m4CldHighB addr, .m4CldHighC addr],
      exec i s = .next { s with out := some 0, target := some .zero })

/-- R127, the mirroring law (the spec's derivation): with a 16 KB image the loads at $8000 + k and $C000 + k return the
same byte, `PRG[k]`. -/
def Obligations.M0SmallImageIsMirrored : Prop :=
  ∀ (s : State) (img : RomImage) (k : Nat), s.liveM0 img → img.prgLen = 16384 → k < 0x4000 →
    ∃ t u, exec (.m0PldRom (BitVec.ofNat 16 (0x8000 + k))) s = .next t ∧
      exec (.m0PldRom (BitVec.ofNat 16 (0xC000 + k))) s = .next u ∧
      t.out = some (Memory.read img.prg k) ∧ u.out = some (Memory.read img.prg k)

/-- R128, state independence (the spec's derivation): on M0 every transaction leaves the chip as it was, and what a word
returns depends on the image and the word only, so two loads of one address return the same byte. -/
def Obligations.M0TransactionsAreStateIndependent : Prop :=
  ∀ (s s' t t' : State) (img : RomImage) (tw : TxWord) (rest rest' : List Presented),
    s.liveM0 img → s'.liveM0 img → s.pending = .word tw :: rest → s'.pending = .word tw :: rest' →
    step s = .next t → step s' = .next t' → t.cart = s.cart ∧ t.out = t'.out

/-! ### M1, ShiftRegisterBanking -/

/-- R142, R146: below $8000 a PRG load returns 0x00 and a PRG store does nothing, whatever its data; the serial sequence
and PRG-RAM are untouched. -/
def Obligations.M1BelowROMIsUnmapped : Prop :=
  ∀ (s : State) (img : RomImage) (r : M1Regs) (addr : Addr) (val : Byte), s.liveM1 img r →
    (∃ tgt, exec (.m1PldLow addr) s = .next { s with out := some 0, target := tgt }) ∧
    ∃ tgt, exec (.m1PstLow addr val) s = .next { s with out := none, target := tgt }

/-- R143 with R141 and R145: the load in $8000-$BFFF, by the PRG mode `ctrl[3:2]`. The reduction modulo `PRG_LEN` is the
spec's decision D6. -/
def Obligations.M1LowWindowShowsItsBank : Prop :=
  ∀ (s : State) (img : RomImage) (r : M1Regs) (addr : Addr), s.liveM1 img r → img.lengthOk = true →
    ∀ bank off, bank = (if r.ctrl.toNat / 4 % 4 < 2 then r.prgBank.toNat / 2 * 2
                        else if r.ctrl.toNat / 4 % 4 = 2 then 0 else r.prgBank.toNat) →
      off = (bank * 16384 + addr.toNat % 16384) % img.prgLen →
      off < img.prgLen ∧ exec (.m1PldB8 addr) s =
        .next { s with out := some (Memory.read img.prg off), target := some (.rom .prgRom off) }

/-- R144 with R141 and R145: the load in $C000-$FFFF, by the PRG mode. The reduction modulo `PRG_LEN` is decision D6. -/
def Obligations.M1HighWindowShowsItsBank : Prop :=
  ∀ (s : State) (img : RomImage) (r : M1Regs) (addr : Addr), s.liveM1 img r → img.lengthOk = true →
    ∀ bank off, bank = (if r.ctrl.toNat / 4 % 4 < 2 then r.prgBank.toNat / 2 * 2 + 1
                        else if r.ctrl.toNat / 4 % 4 = 2 then r.prgBank.toNat else img.prgLen / 16384 - 1) →
      off = (bank * 16384 + addr.toNat % 16384) % img.prgLen →
      off < img.prgLen ∧ exec (.m1PldBC addr) s =
        .next { s with out := some (Memory.read img.prg off), target := some (.rom .prgRom off) }

/-- R147: a reset write clears `write_count` and `accum` and ORs 0x0C into `ctrl`, at any address and whatever its low
seven data bits; nothing else of the chip changes, so `ctrl[1:0]` and `ctrl[4]` are kept and `ctrl[3:2]` becomes 3. -/
def Obligations.M1ResetWriteForcesFixLast : Prop :=
  ∀ (s : State) (img : RomImage) (r : M1Regs) (addr : Addr) (val : Byte), s.liveM1 img r →
    (∃ tgt, exec (.m1PstReset addr val) s = .next { s with
      out := none, target := tgt,
      cart := some ⟨img, .m1 { r with writeCount := 0, accum := 0, ctrl := r.ctrl ||| 0x0C }⟩ }) ∧
    ctrlPrgMode (r.ctrl ||| 0x0C) = 3 ∧ ctrlMirroring (r.ctrl ||| 0x0C) = ctrlMirroring r.ctrl ∧
    ctrlChrMode (r.ctrl ||| 0x0C) = ctrlChrMode r.ctrl

/-- R148, R150 to R153: a qualifying write ORs its low data bit into the accumulator at position `write_count` and counts
one, and no register changes; the fifth replaces the whole register of its own window by the value so formed, clears the
count and the accumulator, and the other three registers keep their values. The premise is R47 (a), part of the
invariant every step keeps. -/
def Obligations.M1QualifyingWriteShiftsOrCommits : Prop :=
  ∀ (s : State) (img : RomImage) (r : M1Regs) (addr : Addr) (val v : Byte), s.liveM1 img r → r.writeCount.toNat ≤ 4 →
    v = r.accum ||| BitVec.ofNat 8 (val.toNat % 2 * 2 ^ r.writeCount.toNat) →
    ∀ pair ∈ [(Instr.m1PstShiftCtrl addr val, { r with ctrl := v }), (.m1PstShiftChr0 addr val, { r with chrBank0 := v }),
              (.m1PstShiftChr1 addr val, { r with chrBank1 := v }), (.m1PstShiftPrg addr val, { r with prgBank := v })],
    ∃ tgt, exec pair.1 s = .next { s with
      out := none, target := tgt,
      cart := some ⟨img, .m1 (if r.writeCount = 4 then { pair.2 with writeCount := 0, accum := 0 }
                              else { r with accum := v, writeCount := r.writeCount + 1 })⟩ }

/-- R162, the five-write law (the spec's derivation), which carries R94 and R241: five qualifying writes from
`write_count` 0, at any addresses at or above $8000, set the register of the fifth write's window to
`b0 | b1<<1 | b2<<2 | b3<<3 | b4<<4`, leave the other registers and both RAMs unchanged, and return the count and the
accumulator to 0. -/
def Obligations.M1FiveWriteLaw : Prop :=
  ∀ (s : State) (img : RomImage) (r : M1Regs) (a0 a1 a2 a3 a4 : Addr) (v0 v1 v2 v3 v4 : Byte) (rest : List Presented),
    s.liveM1 img r → r.writeCount = 0 → r.accum = 0 →
    (∀ a ∈ [a0, a1, a2, a3, a4], 0x8000 ≤ a.toNat) → (∀ v ∈ [v0, v1, v2, v3, v4], v.toNat < 0x80) →
    s.pending = pst a0 v0 :: pst a1 v1 :: pst a2 v2 :: pst a3 v3 :: pst a4 v4 :: rest →
    ∃ t, Host.Core.run Sys2Proof.core 5 s = .next t ∧ t.pending = rest ∧ t.fault = none ∧ t.config = s.config ∧
      ∀ v : Byte, v.toNat = v0.toNat % 2 + v1.toNat % 2 * 2 + v2.toNat % 2 * 4 + v3.toNat % 2 * 8 + v4.toNat % 2 * 16 →
      t.cart = some ⟨img, .m1 (
        if a4.toNat < 0xA000 then { r with ctrl := v }
        else if a4.toNat < 0xC000 then { r with chrBank0 := v }
        else if a4.toNat < 0xE000 then { r with chrBank1 := v }
        else { r with prgBank := v })⟩

/-- R162 (the spec's derivation) with R149's "consecutive": the five writes of the five-write law may have any number of
other transactions between them, so long as none is a PRG store at or above $8000: loads, CHR stores, and ignored stores
below $8000. The five low bits reach the register of the fifth write's window all the same, and the other registers and
PRG-RAM are unchanged. CHR-RAM is what the CHR stores below $2000 among the others make it, each writing its byte at its
address, in their order (R158). The premise that the image is one construction accepts is part of the invariant every step
keeps. -/
def Obligations.M1FiveWriteLawAcrossOtherTransactions : Prop :=
  ∀ (s : State) (img : RomImage) (r : M1Regs) (a0 a1 a2 a3 a4 : Addr) (v0 v1 v2 v3 v4 v : Byte)
      (l0 l1 l2 l3 : List TxWord) (rest : List Presented) (chrRam : Memory),
    s.liveM1 img r → img.lengthOk = true → r.writeCount = 0 → r.accum = 0 →
    (∀ a ∈ [a0, a1, a2, a3, a4], 0x8000 ≤ a.toNat) → (∀ v ∈ [v0, v1, v2, v3, v4], v.toNat < 0x80) →
    (∀ tw ∈ l0 ++ l1 ++ l2 ++ l3, ¬ (dirOf tw = .store ∧ spaceOf tw = .prg ∧ 0x8000 ≤ (addrOf tw).toNat)) →
    s.pending = pst a0 v0 :: (l0.map .word ++ pst a1 v1 :: (l1.map .word ++ pst a2 v2 :: (l2.map .word ++
      pst a3 v3 :: (l3.map .word ++ pst a4 v4 :: rest)))) →
    v.toNat = v0.toNat % 2 + v1.toNat % 2 * 2 + v2.toNat % 2 * 4 + v3.toNat % 2 * 8 + v4.toNat % 2 * 16 →
    chrRam = (l0 ++ l1 ++ l2 ++ l3).foldl (fun m tw =>
      if dirOf tw = .store ∧ spaceOf tw = .chr ∧ (addrOf tw).toNat < 0x2000
      then Memory.write m (addrOf tw).toNat (valOf tw) else m) r.chrRam →
    ∃ t, Host.Core.run Sys2Proof.core (l0.length + l1.length + l2.length + l3.length + 5) s = .next t ∧
      t.pending = rest ∧ t.fault = none ∧ t.config = s.config ∧
      t.cart = some ⟨img, .m1 (
        if a4.toNat < 0xA000 then { r with ctrl := v, chrRam := chrRam }
        else if a4.toNat < 0xC000 then { r with chrBank0 := v, chrRam := chrRam }
        else if a4.toNat < 0xE000 then { r with chrBank1 := v, chrRam := chrRam }
        else { r with prgBank := v, chrRam := chrRam })⟩

/-- R156: a CHR load in the window returns the CHR-RAM byte at its address, and changes nothing but the output. -/
def Obligations.M1ChrLoadReadsRam : Prop :=
  ∀ (s : State) (img : RomImage) (r : M1Regs) (addr : Addr), s.liveM1 img r → addr.toNat < 0x2000 →
    ∃ tgt, exec (.m1Cld addr) s = .next { s with out := some (Memory.read r.chrRam addr.toNat), target := tgt }

/-- R158: a CHR store in the window sets the CHR-RAM byte at its address to its data and changes nothing else: every other
byte of CHR-RAM reads as before, and no register and no byte of PRG-RAM changes. The premise on CHR-RAM is part of the
invariant every step keeps. -/
def Obligations.M1ChrStoreSetsOneByte : Prop :=
  ∀ (s : State) (img : RomImage) (r : M1Regs) (addr : Addr) (val : Byte),
    s.liveM1 img r → ramOk r.chrRam = true → addr.toNat < 0x2000 →
    ∃ tgt, ∃ chrRam : Memory, exec (.m1Cst addr val) s = .next { s with
        out := none, target := tgt, cart := some ⟨img, .m1 { r with chrRam := chrRam }⟩ } ∧
      Memory.read chrRam addr.toNat = val ∧ ∀ k, k ≠ addr.toNat → Memory.read chrRam k = Memory.read r.chrRam k

/-- R159 (R74, decision D4): a CHR store at or above $2000 does nothing, in each of its three table rows. -/
def Obligations.M1ChrStoreAbove2000DoesNothing : Prop :=
  ∀ (s : State) (img : RomImage) (r : M1Regs) (addr : Addr) (val : Byte), s.liveM1 img r →
    ∀ i ∈ [Instr.m1CstHighA addr val, .m1CstHighB addr val, .m1CstHighC addr val],
      exec i s = .next { s with out := none, target := some .ignore }

/-- R158 with R80: what is stored is loaded back: after a CHR store the next CHR load of the same address returns the
byte, and of another address what it returned before. -/
def Obligations.M1ChrRamReadsBack : Prop :=
  ∀ (s t : State) (img : RomImage) (r : M1Regs) (addr addr' : Addr) (val : Byte),
    s.liveM1 img r → ramOk r.chrRam = true → addr.toNat < 0x2000 → addr'.toNat < 0x2000 →
    exec (.m1Cst addr val) s = .next t →
    ∃ u u', exec (.m1Cld addr') t = .next u ∧ exec (.m1Cld addr') s = .next u' ∧
      u.out = if addr' = addr then some val else u'.out

/-- R161 (decision D13): the mirroring side-band is `ctrl[1:0]` on M1 and is not driven on M0 and M4. -/
def Obligations.MirroringFollowsCtrl : Prop :=
  ∀ (s : State) (img : RomImage) (r1 : M1Regs) (r4 : M4Regs),
    (s.cart = some ⟨img, .m1 r1⟩ → portMirroring s = some (BitVec.ofNat 2 r1.ctrl.toNat)) ∧
    (s.cart = some ⟨img, .m0⟩ → portMirroring s = none) ∧
    (s.cart = some ⟨img, .m4 r4⟩ → portMirroring s = none)

/-! ### M4, IndexedBanking -/

/-- R171, R178: below $6000 a PRG load returns 0x00 and a PRG store does nothing, in each of their two table rows. -/
def Obligations.M4BelowRamIsUnmapped : Prop :=
  ∀ (s : State) (img : RomImage) (r : M4Regs) (addr : Addr) (val : Byte), s.liveM4 img r →
    (∀ i ∈ [Instr.m4PldLowA addr, .m4PldLowB addr],
      ∃ tgt, exec i s = .next { s with out := some 0, target := tgt }) ∧
    (∀ i ∈ [Instr.m4PstLowA addr val, .m4PstLowB addr val],
      ∃ tgt, exec i s = .next { s with out := none, target := tgt })

/-- R172: a PRG load in $6000-$7FFF returns the PRG-RAM byte at `addr & 0x1FFF`. -/
def Obligations.M4RamLoadReadsRam : Prop :=
  ∀ (s : State) (img : RomImage) (r : M4Regs) (addr : Addr), s.liveM4 img r →
    ∃ tgt, exec (.m4PldRam addr) s =
      .next { s with out := some (Memory.read r.prgRam (addr.toNat % 8192)), target := tgt }

/-- R179: a PRG store in $6000-$7FFF sets the PRG-RAM byte at `addr & 0x1FFF` to its data and changes nothing else: every
other byte of PRG-RAM reads as before and no register changes. The premise on PRG-RAM is part of the invariant every
step keeps. -/
def Obligations.M4RamStoreSetsOneByte : Prop :=
  ∀ (s : State) (img : RomImage) (r : M4Regs) (addr : Addr) (val : Byte), s.liveM4 img r → ramOk r.prgRam = true →
    ∃ tgt, ∃ prgRam : Memory, exec (.m4PstRam addr val) s = .next { s with
        out := none, target := tgt, cart := some ⟨img, .m4 { r with prgRam := prgRam }⟩ } ∧
      Memory.read prgRam (addr.toNat % 8192) = val ∧
      ∀ k, k ≠ addr.toNat % 8192 → Memory.read prgRam k = Memory.read r.prgRam k

/-- R173, R175 with R177: the loads in $8000-$9FFF and $C000-$DFFF, by the mode bit `bank_select[6]`, for both
polarities (R37, decision D8): one window shows `prg_banks[0]`, the other the second-to-last bank in 8 KB units
(decision D7), with the offset reduced modulo `PRG_LEN` (decision D6). -/
def Obligations.M4SwappableWindowsByMode : Prop :=
  ∀ (s : State) (img : RomImage) (r : M4Regs) (addr : Addr) (swapped : Bool) (b8 bC o8 oC : Nat),
    s.liveM4 img r → img.lengthOk = true →
    (swapped = true ↔ (r.bankSelect.toNat / 64 % 2 = 0 ↔ s.config.m4ModePolarity = .zeroIs8000)) →
    b8 = (if swapped then r.prgBank0.toNat else img.prgLen / 8192 - 2) →
    bC = (if swapped then img.prgLen / 8192 - 2 else r.prgBank0.toNat) →
    o8 = (b8 * 8192 + addr.toNat % 8192) % img.prgLen → oC = (bC * 8192 + addr.toNat % 8192) % img.prgLen →
    exec (.m4PldW8 addr) s = .next { s with out := some (Memory.read img.prg o8), target := some (.rom .prgRom o8) } ∧
    exec (.m4PldWC addr) s = .next { s with out := some (Memory.read img.prg oC), target := some (.rom .prgRom oC) }

/-- R174: the load in $A000-$BFFF shows `prg_banks[1]` in both modes, with the offset reduced modulo `PRG_LEN`
(decision D6). -/
def Obligations.M4WindowAShowsPrgBank1 : Prop :=
  ∀ (s : State) (img : RomImage) (r : M4Regs) (addr : Addr) (off : Nat), s.liveM4 img r → img.lengthOk = true →
    off = (r.prgBank1.toNat * 8192 + addr.toNat % 8192) % img.prgLen →
    exec (.m4PldWA addr) s =
      .next { s with out := some (Memory.read img.prg off), target := some (.rom .prgRom off) }

/-- R176: the load in $E000-$FFFF returns the byte of the last 8 KB of the image, `PRG[PRG_LEN - 8192 + addr[12:0]]`,
whatever the registers hold; the bank count is in 8 KB units (decision D7). -/
def Obligations.M4WindowEShowsTheLastBank : Prop :=
  ∀ (s : State) (img : RomImage) (r : M4Regs) (addr : Addr) (off : Nat), s.liveM4 img r → img.lengthOk = true →
    off = img.prgLen - 8192 + addr.toNat % 8192 →
    off < img.prgLen ∧ exec (.m4PldWE addr) s =
      .next { s with out := some (Memory.read img.prg off), target := some (.rom .prgRom off) }

/-- R180: a bank select write replaces the whole of `bank_select`; no slot and no RAM byte changes. -/
def Obligations.M4SelectReplacesBankSelect : Prop :=
  ∀ (s : State) (img : RomImage) (r : M4Regs) (addr : Addr) (val : Byte), s.liveM4 img r →
    ∃ tgt, exec (.m4PstSelect addr val) s = .next { s with
      out := none, target := tgt, cart := some ⟨img, .m4 { r with bankSelect := val }⟩ }

/-- R181: a bank data write stores its whole byte into the slot `bank_select[2:0]` selects, and changes nothing else of the
chip. -/
def Obligations.M4DataWritesTheSelectedSlot : Prop :=
  ∀ (s : State) (img : RomImage) (r : M4Regs) (addr : Addr) (val : Byte) (sel : Nat), s.liveM4 img r →
    sel = r.bankSelect.toNat % 8 →
    ∃ tgt, exec (.m4PstData addr val) s = .next { s with
      out := none, target := tgt,
      cart := some ⟨img, .m4 (
        if sel = 0 then { r with chr2k0 := val } else if sel = 1 then { r with chr2k1 := val }
        else if sel = 2 then { r with chr1k0 := val } else if sel = 3 then { r with chr1k1 := val }
        else if sel = 4 then { r with chr1k2 := val } else if sel = 5 then { r with chr1k3 := val }
        else if sel = 6 then { r with prgBank0 := val } else { r with prgBank1 := val })⟩ }

/-- R185: a PRG store at or above $A000 is accepted and ignored, in both of its table rows. -/
def Obligations.M4StoreAboveA000IsIgnored : Prop :=
  ∀ (s : State) (img : RomImage) (r : M4Regs) (addr : Addr) (val : Byte), s.liveM4 img r →
    ∀ i ∈ [Instr.m4PstHighA addr val, .m4PstHighB addr val],
      ∃ tgt, exec i s = .next { s with out := none, target := tgt }

/-- R189: every CHR store on M4 does nothing. -/
def Obligations.M4ChrStoreDoesNothing : Prop :=
  ∀ (s : State) (img : RomImage) (r : M4Regs) (addr : Addr) (val : Byte), s.liveM4 img r →
    ∃ tgt, exec (.m4Cst addr val) s = .next { s with out := none, target := tgt }

/-- R191, the fixed-bank laws (the spec's derivation), under the default polarity (decision D8, log entry 7): in
swappable-at-8000 a load in $C000-$DFFF, and in swappable-at-C000 a load in $8000-$9FFF, returns
`PRG[PRG_LEN - 16384 + addr[12:0]]`; the load in $E000-$FFFF returns `PRG[PRG_LEN - 8192 + addr[12:0]]`. -/
def Obligations.M4FixedBankLaws : Prop :=
  ∀ (s : State) (img : RomImage) (r : M4Regs) (addr : Addr), s.liveM4 img r → img.lengthOk = true →
    s.config.m4ModePolarity = .zeroIs8000 →
    (∃ t, exec (if r.bankSelect.getLsbD 6 then .m4PldW8 addr else .m4PldWC addr) s = .next t ∧
      t.out = some (Memory.read img.prg (img.prgLen - 16384 + addr.toNat % 8192))) ∧
    (∃ t, exec (.m4PldWE addr) s = .next t ∧
      t.out = some (Memory.read img.prg (img.prgLen - 8192 + addr.toNat % 8192)))

/-- R247 (the spec's derivation): flipping the mode bit swaps $8000-$9FFF and $C000-$DFFF and leaves $A000-$BFFF and
$E000-$FFFF as they are. `k` is the offset inside a window; each pair is the load after the flip and the load before it
that returns the same byte. -/
def Obligations.M4ModeBitSwapsTwoWindows : Prop :=
  ∀ (s s' : State) (img : RomImage) (r : M4Regs) (k : Nat),
    s.liveM4 img r → img.lengthOk = true → k < 0x2000 →
    s' = { s with cart := some ⟨img, .m4 { r with bankSelect := r.bankSelect ^^^ 0x40 }⟩ } →
    ∀ pair ∈ [(Instr.m4PldW8 (BitVec.ofNat 16 (0x8000 + k)), Instr.m4PldWC (BitVec.ofNat 16 (0xC000 + k))),
              (.m4PldWC (BitVec.ofNat 16 (0xC000 + k)), .m4PldW8 (BitVec.ofNat 16 (0x8000 + k))),
              (.m4PldWA (BitVec.ofNat 16 (0xA000 + k)), .m4PldWA (BitVec.ofNat 16 (0xA000 + k))),
              (.m4PldWE (BitVec.ofNat 16 (0xE000 + k)), .m4PldWE (BitVec.ofNat 16 (0xE000 + k)))],
    ∃ t t' b, exec pair.1 s' = .next t' ∧ exec pair.2 s = .next t ∧ t.out = some b ∧ t'.out = some b

/-! ### Frames and whole-machine rules -/

/-- R75 and R49 for loads: a load, of either space and on any chip, changes nothing but the output: not the chip, not its
image, not one register or RAM byte; and the same load presented again returns the same byte. -/
def Obligations.LoadsHaveNoSideEffect : Prop :=
  ∀ (s t : State) (tw : TxWord) (rest : List Presented),
    s.pending = .word tw :: rest → dirOf tw = .load → step s = .next t →
    t.cart = s.cart ∧ t.config = s.config ∧ t.fault = s.fault ∧ t.constructErr = s.constructErr ∧ t.pending = rest ∧
    t.req = some tw ∧ ∃ u, step { t with pending := .word tw :: rest } = .next u ∧ u.out = t.out

/-- R49 for stores, with R20: a store never changes the image or the variant; a CHR store changes nothing but M1 CHR-RAM;
a PRG store changes no byte of M1's RAMs, and nothing at all on M0. -/
def Obligations.StoresChangeOnlyWhatTheirSideMay : Prop :=
  ∀ (s t : State) (c c' : Cart) (tw : TxWord) (rest : List Presented),
    s.pending = .word tw :: rest → dirOf tw = .store → s.cart = some c → t.cart = some c' → step s = .next t →
    c'.image = c.image ∧ t.out = none ∧ t.config = s.config ∧ t.fault = s.fault ∧ t.constructErr = s.constructErr ∧
    (c.chip = .m0 → c'.chip = .m0) ∧
    (∀ r, c.chip = .m1 r → ∃ r', c'.chip = .m1 r' ∧ r'.prgRam = r.prgRam ∧
      (spaceOf tw = .prg → r'.chrRam = r.chrRam) ∧
      (spaceOf tw = .chr → r' = { r with chrRam := r'.chrRam })) ∧
    (∀ r, c.chip = .m4 r → ∃ r', c'.chip = .m4 r' ∧ (spaceOf tw = .chr → r' = r))

/-- The memory frame of every transaction: each byte of each physical store reads after the step as before it, but the one
RAM byte a RAM store names: M1 CHR-RAM at the address of a CHR store below $2000 (R158), M4 PRG-RAM at `addr & 0x1FFF`
of a PRG store in $6000-$7FFF (R179). -/
def Obligations.MemoryFrameOfEveryTransaction : Prop :=
  ∀ (s t : State) (tw : TxWord) (rest : List Presented) (st : PhysStore) (off : Nat),
    s.pending = .word tw :: rest → step s = .next t →
    ¬ (dirOf tw = .store ∧ liveVariant s = some .m1 ∧ st = .chrRam ∧ spaceOf tw = .chr ∧
        (addrOf tw).toNat < 0x2000 ∧ off = (addrOf tw).toNat) →
    ¬ (dirOf tw = .store ∧ liveVariant s = some .m4 ∧ st = .prgRam ∧ spaceOf tw = .prg ∧
        (addrOf tw).toNat / 8192 = 3 ∧ off = (addrOf tw).toNat % 8192) →
    t.ramByte st off = s.ramByte st off

/-- R192, slot isolation (the spec's derivation): on M4 a bank data write changes exactly the selected slot, a bank select
write changes no slot, and no other transaction changes any slot or `bank_select`; register stores change no RAM byte,
and RAM stores no register. -/
def Obligations.M4SlotIsolation : Prop :=
  ∀ (s t : State) (img img' : RomImage) (r r' : M4Regs) (tw : TxWord) (rest : List Presented) (isSelect isData : Bool),
    s.liveM4 img r → s.pending = .word tw :: rest → step s = .next t → t.cart = some ⟨img', .m4 r'⟩ →
    (isSelect = true ↔ dirOf tw = .store ∧ spaceOf tw = .prg ∧ (addrOf tw).toNat / 8192 = 4 ∧ (addrOf tw).toNat % 2 = 0) →
    (isData = true ↔ dirOf tw = .store ∧ spaceOf tw = .prg ∧ (addrOf tw).toNat / 8192 = 4 ∧ (addrOf tw).toNat % 2 = 1) →
    r'.bankSelect = (if isSelect then valOf tw else r.bankSelect) ∧
    (∀ sl : Slot, readSlot r' sl =
      if isData = true ∧ slotOf (r.bankSelect.toNat % 8) = some sl then valOf tw else readSlot r sl) ∧
    (isSelect = true ∨ isData = true → r'.prgRam = r.prgRam)

/-- R42 (the spec's derivation): state that affects no load. Whatever `chr_bank_0`, `chr_bank_1`, `ctrl[1:0]`, `ctrl[4]`
and the PRG-RAM of M1 hold, and whatever `chr2k`, `chr1k`, `bank_select[7]` and `bank_select[5:3]` of M4 hold, every load
returns the same byte (R28, R38, R39, R160, R190). -/
def Obligations.UnreadStateAffectsNoLoad : Prop :=
  ∀ (s t : State) (img : RomImage) (tw : TxWord) (rest : List Presented),
    s.pending = .word tw :: rest → dirOf tw = .load → step s = .next t →
    (∀ (r : M1Regs) (x y z : Byte) (m : Memory), s.liveM1 img r →
      ∃ t', step { s with cart := some ⟨img, .m1 { r with
          chrBank0 := x, chrBank1 := y, prgRam := m, ctrl := (r.ctrl &&& 0xEC) ||| (z &&& 0x13) }⟩ } = .next t' ∧
        t'.out = t.out) ∧
    (∀ (r : M4Regs) (a b c d e f z : Byte), s.liveM4 img r →
      ∃ t', step { s with cart := some ⟨img, .m4 { r with
          chr2k0 := a, chr2k1 := b, chr1k0 := c, chr1k1 := d, chr1k2 := e, chr1k3 := f,
          bankSelect := (r.bankSelect &&& 0x47) ||| (z &&& 0xB8) }⟩ } = .next t' ∧
        t'.out = t.out)

/-- R78, last sentence (the spec's derivation): the CPU side and the PPU side do not interfere. A PRG and a CHR transaction
presented in either order leave the same chip, and each returns the same byte in both orders. -/
def Obligations.CpuAndPpuSidesCommute : Prop :=
  ∀ (s t1 t2 u1 u2 : State) (p c : TxWord) (rest : List Presented), spaceOf p = .prg → spaceOf c = .chr →
    step { s with pending := .word p :: .word c :: rest } = .next t1 → step t1 = .next t2 →
    step { s with pending := .word c :: .word p :: rest } = .next u1 → step u1 = .next u2 →
    t2.cart = u2.cart ∧ t1.out = u2.out ∧ t2.out = u1.out ∧ t2.pending = rest ∧ u2.pending = rest

/-- R93, R99 (the spec's derivation): ignored bits. A shift depends on bit 0 of its data alone, a reset write on none of
its data, a register store of M4 on none of its address, and the window of an M1 load only on its low 14 address bits. -/
def Obligations.IgnoredBitsChangeNothing : Prop :=
  ∀ (s : State) (a b : Addr) (v w : Byte),
    (v.toNat % 2 = w.toNat % 2 →
      exec (.m1PstShiftCtrl a v) s = exec (.m1PstShiftCtrl b w) s ∧
      exec (.m1PstShiftChr0 a v) s = exec (.m1PstShiftChr0 b w) s ∧
      exec (.m1PstShiftChr1 a v) s = exec (.m1PstShiftChr1 b w) s ∧
      exec (.m1PstShiftPrg a v) s = exec (.m1PstShiftPrg b w) s) ∧
    exec (.m1PstReset a v) s = exec (.m1PstReset a w) s ∧
    exec (.m4PstSelect a v) s = exec (.m4PstSelect b v) s ∧
    exec (.m4PstData a v) s = exec (.m4PstData b v) s ∧
    (a.toNat % 16384 = b.toNat % 16384 →
      exec (.m1PldB8 a) s = exec (.m1PldB8 b) s ∧ exec (.m1PldBC a) s = exec (.m1PldBC b) s)

/-- R75 for stores: on M4 the same store presented twice leaves the same chip as once, and so does a CHR store on M1. -/
def Obligations.RepeatedStoreIsIdempotent : Prop :=
  ∀ (s t u : State) (tw : TxWord) (rest : List Presented),
    s.pending = .word tw :: .word tw :: rest → s.inv = true →
    (liveVariant s = some .m4 ∨ (liveVariant s = some .m1 ∧ spaceOf tw = .chr)) →
    step s = .next t → step t = .next u → u.cart = t.cart

/-- R111 (decision D1): the response and memory-side ports after a transaction: a store drives 0x00 on `rsp_rdata`,
`tgt_we` is 1 exactly for a RAM store, `tgt_wdata` is the word's data field, and the byte the memory returns is the byte
the load returns. -/
def Obligations.PortsShowTheTransaction : Prop :=
  ∀ (s t : State) (tw : TxWord) (rest : List Presented), s.pending = .word tw :: rest → step s = .next t →
    portTgtWdata t = some (valOf tw) ∧
    (dirOf tw = .store → portRspRdata t = 0 ∧
      (portTgtWe t = true ↔ portTgtKind t = some 3 ∨ portTgtKind t = some 4)) ∧
    (dirOf tw = .load → portTgtWe t = false ∧ (portTgtKind t ≠ some 0 → portTgtRdata t = some (portRspRdata t)))

/-- R62 to R65 (R62 is the spec's derivation), as the latched translation result shows it (log entry 5): the target of
every transaction by chip, space, direction and window. A PRG-ROM target lies inside the image and its byte is the one
returned. -/
def Obligations.TargetsFollowTheWindowMap : Prop :=
  ∀ (s t : State) (img : RomImage) (tw : TxWord) (rest : List Presented) (a : Nat),
    s.pending = .word tw :: rest → step s = .next t → a = (addrOf tw).toNat →
    (s.liveM0 img →
      t.target = some (
        if dirOf tw = .store then .ignore
        else if spaceOf tw = .chr then (if a < 0x2000 then .rom .chrRom a else .zero)
        else if a < 0x8000 then .zero
        else .rom .prgRom (if 16384 < img.prgLen then a % 32768 else a % 16384)) ∧
      (spaceOf tw = .prg → dirOf tw = .load → 0x8000 ≤ a →
        ∃ off, off < img.prgLen ∧ t.target = some (.rom .prgRom off) ∧ t.out = some (Memory.read img.prg off))) ∧
    (∀ r, s.liveM1 img r →
      (spaceOf tw = .chr → t.target = some (
        if a < 0x2000 then .ram .chrRam a else if dirOf tw = .load then .zero else .ignore)) ∧
      (spaceOf tw = .prg → dirOf tw = .store → t.target = some (
        if a < 0x8000 then .ignore else if a < 0xA000 then .reg (.serial .ctrl)
        else if a < 0xC000 then .reg (.serial .chrBank0) else if a < 0xE000 then .reg (.serial .chrBank1)
        else .reg (.serial .prgBank))) ∧
      (spaceOf tw = .prg → dirOf tw = .load →
        if a < 0x8000 then t.target = some .zero
        else ∃ off, off < img.prgLen ∧ t.target = some (.rom .prgRom off) ∧ t.out = some (Memory.read img.prg off))) ∧
    (∀ r, s.liveM4 img r →
      (spaceOf tw = .chr → t.target = some (
        if dirOf tw = .store then .ignore else if a < 0x2000 then .rom .chrRom a else .zero)) ∧
      (spaceOf tw = .prg → dirOf tw = .store →
        if a < 0x6000 then t.target = some .ignore
        else if a < 0x8000 then t.target = some (.ram .prgRam (a % 8192))
        else if a < 0xA000 then
          (if a % 2 = 0 then t.target = some (.reg .bankSelect)
           else ∃ sl, slotOf (r.bankSelect.toNat % 8) = some sl ∧ t.target = some (.reg (.slot sl)))
        else t.target = some .ignore) ∧
      (spaceOf tw = .prg → dirOf tw = .load →
        if a < 0x6000 then t.target = some .zero
        else if a < 0x8000 then t.target = some (.ram .prgRam (a % 8192))
        else ∃ off, off < img.prgLen ∧ t.target = some (.rom .prgRom off) ∧ t.out = some (Memory.read img.prg off)))
end

