-- ==== Sys2Proof/Laws/Bits.lean ====
section
/-! SUPPORT. Bit facts: the fields of a packed word, and the numbers behind masks and slices. -/

namespace Sys2Proof

/-! ### The transaction word (R91) -/

@[simp] theorem spaceOf_packTx (sp : Space) (rw : Dir) (a : Addr) (v : Byte) : spaceOf (packTx sp rw a v) = sp := by
  cases sp <;> cases rw <;> simp [spaceOf, packTx, Space.bit, Dir.bit]

@[simp] theorem dirOf_packTx (sp : Space) (rw : Dir) (a : Addr) (v : Byte) : dirOf (packTx sp rw a v) = rw := by
  cases sp <;> cases rw <;> simp [dirOf, packTx, Space.bit, Dir.bit]

@[simp] theorem addrOf_packTx (sp : Space) (rw : Dir) (a : Addr) (v : Byte) : addrOf (packTx sp rw a v) = a := by
  refine BitVec.eq_of_getLsbD_eq fun i hi => ?_
  have h25 : ¬ 25 ≤ 8 + i := by omega
  have h24 : ¬ 24 ≤ 8 + i := by omega
  have h26 : 8 + i < 26 := by omega
  simp [addrOf, packTx, hi, h26, show 8 + i < 25 by omega, show 8 + i < 24 by omega]

@[simp] theorem valOf_packTx (sp : Space) (rw : Dir) (a : Addr) (v : Byte) : valOf (packTx sp rw a v) = v := by
  refine BitVec.eq_of_getLsbD_eq fun i hi => ?_
  simp [valOf, packTx, hi, show i < 26 by omega, show i < 25 by omega, show i < 24 by omega]

/-- A word is the packing of its own fields. -/
theorem packTx_fields (tw : TxWord) : packTx (spaceOf tw) (dirOf tw) (addrOf tw) (valOf tw) = tw := by
  refine BitVec.eq_of_getLsbD_eq fun i hi => ?_
  by_cases h25 : tw.getLsbD 25 <;> by_cases h24 : tw.getLsbD 24 <;>
    simp [packTx, spaceOf, dirOf, addrOf, valOf, h25, h24, Space.bit, Dir.bit] <;> interval_cases i <;> simp_all

/-- With the data field cleared it is the word with its low eight bits cleared. -/
theorem packTx_fields_zero (tw : TxWord) : packTx (spaceOf tw) (dirOf tw) (addrOf tw) 0 = tw &&& 0x3FFFF00 := by
  refine BitVec.eq_of_getLsbD_eq fun i hi => ?_
  by_cases h25 : tw.getLsbD 25 <;> by_cases h24 : tw.getLsbD 24 <;>
    simp [packTx, spaceOf, dirOf, addrOf, h25, h24, Space.bit, Dir.bit] <;> interval_cases i <;> simp_all

namespace Machine

/-! ### Masks and slices (R93) -/

theorem low13_eq (a : Addr) : low13 a = a.toNat % 8192 := by
  rw [low13, BitVec.toNat_and]
  exact Nat.and_two_pow_sub_one_eq_mod a.toNat 13

theorem low14_eq (a : Addr) : low14 a = a.toNat % 16384 := by
  rw [low14, BitVec.toNat_and]
  exact Nat.and_two_pow_sub_one_eq_mod a.toNat 14

theorem m0PrgOffset_eq (a : Addr) (n : Nat) :
    m0PrgOffset a n = if 16384 < n then a.toNat % 32768 else a.toNat % 16384 := by
  simp only [m0PrgOffset, BitVec.toNat_and]
  split
  · exact Nat.and_two_pow_sub_one_eq_mod a.toNat 15
  · exact Nat.and_two_pow_sub_one_eq_mod a.toNat 14

theorem low13_lt (a : Addr) : low13 a < size8K := by
  rw [low13_eq]; exact Nat.mod_lt _ (by decide)

theorem prgOffset_lt {n : Nat} (h : 0 < n) (bank bankSize low : Nat) : prgOffset bank bankSize low n < n :=
  Nat.mod_lt _ h

/-! ### Control-register fields (R23, R35) -/

theorem ctrlPrgMode_toNat (c : Byte) : (ctrlPrgMode c).toNat = c.toNat / 4 % 4 := by
  simp [ctrlPrgMode, BitVec.extractLsb'_toNat, Nat.shiftRight_eq_div_pow]

theorem updateSelect_toNat (b : Byte) : (updateSelect b).toNat = b.toNat % 8 := by
  simp [updateSelect, BitVec.extractLsb'_toNat]

/-- No value of the 2-bit field is outside the decode (R25, R203). -/
theorem prgModeOf_isSome (c : Byte) : ∃ m, prgModeOf (ctrlPrgMode c).toNat = some m := by
  have h : (ctrlPrgMode c).toNat < 4 := (ctrlPrgMode c).isLt
  generalize (ctrlPrgMode c).toNat = n at h
  match n, h with
  | 0, _ => exact ⟨_, rfl⟩
  | 1, _ => exact ⟨_, rfl⟩
  | 2, _ => exact ⟨_, rfl⟩
  | 3, _ => exact ⟨_, rfl⟩

/-- No value of the 3-bit field is outside the decode (R36, R186). -/
theorem slotOf_isSome (b : Byte) : ∃ sl, slotOf (updateSelect b).toNat = some sl := by
  have h : (updateSelect b).toNat < 8 := (updateSelect b).isLt
  generalize (updateSelect b).toNat = n at h
  match n, h with
  | 0, _ => exact ⟨_, rfl⟩
  | 1, _ => exact ⟨_, rfl⟩
  | 2, _ => exact ⟨_, rfl⟩
  | 3, _ => exact ⟨_, rfl⟩
  | 4, _ => exact ⟨_, rfl⟩
  | 5, _ => exact ⟨_, rfl⟩
  | 6, _ => exact ⟨_, rfl⟩
  | 7, _ => exact ⟨_, rfl⟩

/-- The low data bit as a number (R148). -/
theorem val_and_one (v : Byte) : v &&& 0x01 = BitVec.ofNat 8 (v.toNat % 2) := by
  revert v; decide

end Machine

end Sys2Proof
end

