-- ==== Sys2Proof/Laws/Memory.lean ====
section
/-! SUPPORT. Laws of byte store contents: read after write, and that a write keeps the canonical form. -/

namespace Sys2Proof

@[simp] theorem Memory.read_nil (k : Nat) : Memory.read [] k = 0 := rfl

@[simp] theorem Memory.wf_nil : Memory.wf [] = true := rfl

@[simp] theorem Memory.below_nil (n : Nat) : Memory.below n [] = true := rfl

theorem Memory.wf_cons {a : Nat} {b : Byte} {m : Memory} :
    Memory.wf ((a, b) :: m) = true ↔ b ≠ 0 ∧ (∀ c ∈ m, a < c.1) ∧ Memory.wf m = true := by
  simp [Memory.wf, and_assoc]

theorem Memory.below_cons {n a : Nat} {b : Byte} {m : Memory} :
    Memory.below n ((a, b) :: m) = true ↔ a < n ∧ Memory.below n m = true := by
  simp [Memory.below]

/-- An offset below every listed one holds 0x00. -/
theorem Memory.read_eq_zero_of_lt {m : Memory} {k : Nat} (h : ∀ c ∈ m, k < c.1) : Memory.read m k = 0 := by
  induction m with
  | nil => rfl
  | cons c m ih =>
    have hc := h c (by simp)
    rw [Memory.read, if_neg (by omega), ih fun d hd => h d (by simp [hd])]

theorem Memory.read_write_same {m : Memory} (k : Nat) (v : Byte) (h : Memory.wf m = true) :
    Memory.read (Memory.write m k v) k = v := by
  induction m with
  | nil => by_cases hv : v = 0#8 <;> simp [Memory.write, Memory.read, hv]
  | cons c m ih =>
    obtain ⟨a, b⟩ := c
    obtain ⟨-, ha, hm⟩ := Memory.wf_cons.1 h
    have zero (hk : k ≤ a) : Memory.read m k = 0 :=
      Memory.read_eq_zero_of_lt fun d hd => Nat.lt_of_le_of_lt hk (ha d hd)
    rcases Nat.lt_trichotomy a k with hlt | rfl | hgt
    · rw [Memory.write, if_pos hlt, Memory.read, if_neg (by omega), ih hm]
    · by_cases hv : v = 0#8 <;> simp [Memory.write, Memory.read, hv, zero]
    · rw [Memory.write, if_neg (by omega), if_neg (by omega)]
      by_cases hv : v = 0#8
      · simp [Memory.read, hv, zero (by omega)]; omega
      · simp [Memory.read, hv]

theorem Memory.read_write_other (m : Memory) {k k' : Nat} (v : Byte) (h : k' ≠ k) :
    Memory.read (Memory.write m k v) k' = Memory.read m k' := by
  induction m with
  | nil => by_cases hv : v = 0#8 <;> simp [Memory.write, Memory.read, hv, h.symm]
  | cons c m ih =>
    obtain ⟨a, b⟩ := c
    simp only [Memory.write]
    split
    · simp only [Memory.read, ih]
    · split
      · subst a; split <;> simp [Memory.read, h.symm]
      · split <;> simp [Memory.read, h.symm]

/-- A written list holds no offset but those of the old list and the written one. -/
theorem Memory.mem_write {m : Memory} {k : Nat} {v : Byte} {c : Host.Cell} (h : c ∈ Memory.write m k v) :
    c ∈ m ∨ c.1 = k := by
  induction m with
  | nil => simp only [Memory.write] at h; split at h <;> simp_all
  | cons d m ih =>
    obtain ⟨a, b⟩ := d
    simp only [Memory.write] at h
    split at h
    · rcases List.mem_cons.1 h with rfl | h
      · simp
      · rcases ih h with h | h <;> simp [h]
    · split at h <;> split at h <;> simp_all
      · rcases h with rfl | h <;> simp_all
      · rcases h with rfl | rfl | h <;> simp_all

theorem Memory.write_wf {m : Memory} (k : Nat) (v : Byte) (h : Memory.wf m = true) :
    Memory.wf (Memory.write m k v) = true := by
  induction m with
  | nil => by_cases hv : v = 0#8 <;> simp [Memory.write, Memory.wf, hv]
  | cons c m ih =>
    obtain ⟨a, b⟩ := c
    obtain ⟨hb, ha, hm⟩ := Memory.wf_cons.1 h
    rcases Nat.lt_trichotomy a k with hlt | rfl | hgt
    · rw [Memory.write, if_pos hlt]
      refine Memory.wf_cons.2 ⟨hb, fun d hd => ?_, ih hm⟩
      rcases Memory.mem_write hd with hd | hd
      · exact ha d hd
      · omega
    · rw [Memory.write, if_neg (by omega), if_pos rfl]
      split
      · exact hm
      · exact Memory.wf_cons.2 ⟨‹_›, ha, hm⟩
    · rw [Memory.write, if_neg (by omega), if_neg (by omega)]
      split
      · exact h
      · refine Memory.wf_cons.2 ⟨‹_›, fun d hd => ?_, h⟩
        rcases List.mem_cons.1 hd with rfl | hd
        · exact hgt
        · exact Nat.lt_trans hgt (ha d hd)

theorem Memory.write_below {m : Memory} {n k : Nat} (v : Byte) (hk : k < n) (h : Memory.below n m = true) :
    Memory.below n (Memory.write m k v) = true := by
  simp only [Memory.below, List.all_eq_true, decide_eq_true_eq] at h ⊢
  intro c hc
  rcases Memory.mem_write hc with hc | hc
  · exact h c hc
  · omega

/-- In canonical form equal contents are equal data. -/
theorem Memory.ext_of_wf {m m' : Memory} (h : Memory.wf m = true) (h' : Memory.wf m' = true)
    (hr : ∀ k, Memory.read m k = Memory.read m' k) : m = m' := by
  induction m generalizing m' with
  | nil =>
    cases m' with
    | nil => rfl
    | cons c m' =>
      obtain ⟨a, b⟩ := c
      have := hr a
      simp [Memory.read] at this
      exact absurd this.symm (Memory.wf_cons.1 h').1
  | cons c m ih =>
    obtain ⟨a, b⟩ := c
    obtain ⟨hb, ha, hm⟩ := Memory.wf_cons.1 h
    cases m' with
    | nil =>
      have := hr a
      simp [Memory.read] at this
      exact absurd this hb
    | cons c' m' =>
      obtain ⟨a', b'⟩ := c'
      obtain ⟨hb', ha', hm'⟩ := Memory.wf_cons.1 h'
      have haa : a = a' := by
        rcases Nat.lt_trichotomy a a' with hlt | heq | hgt
        · have := hr a
          rw [Memory.read, if_pos rfl, Memory.read, if_neg (by omega),
            Memory.read_eq_zero_of_lt fun d hd => Nat.lt_trans hlt (ha' d hd)] at this
          exact absurd this hb
        · exact heq
        · have := hr a'
          rw [Memory.read, if_neg (by omega), Memory.read_eq_zero_of_lt fun d hd => Nat.lt_trans hgt (ha d hd),
            Memory.read, if_pos rfl] at this
          exact absurd this.symm hb'
      subst haa
      have hbb : b = b' := by simpa [Memory.read] using hr a
      subst hbb
      congr 1
      refine ih hm hm' fun k => ?_
      by_cases hk : a = k
      · subst hk
        rw [Memory.read_eq_zero_of_lt ha, Memory.read_eq_zero_of_lt ha']
      · simpa [Memory.read, hk] using hr k

end Sys2Proof
end

