-- ==== Sys2Proof/Laws/State.lean ====
section
/-! SUPPORT. One lemma per field per named update of the state and of the chips' registers, so that no proof unfolds a
record update. -/

namespace Sys2Proof.Machine

/-! ### `accept` -/

@[simp] theorem accept_config (s : State) (p : Presented) (rest : List Presented) :
    (accept s p rest).config = s.config := rfl

@[simp] theorem accept_cart (s : State) (p : Presented) (rest : List Presented) :
    (accept s p rest).cart = s.cart := rfl

@[simp] theorem accept_fault (s : State) (p : Presented) (rest : List Presented) :
    (accept s p rest).fault = s.fault := rfl

@[simp] theorem accept_constructErr (s : State) (p : Presented) (rest : List Presented) :
    (accept s p rest).constructErr = s.constructErr := rfl

@[simp] theorem accept_out (s : State) (p : Presented) (rest : List Presented) :
    (accept s p rest).out = s.out := rfl

@[simp] theorem accept_target (s : State) (p : Presented) (rest : List Presented) :
    (accept s p rest).target = s.target := rfl

@[simp] theorem accept_pending (s : State) (p : Presented) (rest : List Presented) :
    (accept s p rest).pending = rest := rfl

@[simp] theorem accept_req (s : State) (p : Presented) (rest : List Presented) :
    (accept s p rest).req = presentedWord p := rfl

@[simp] theorem liveVariant_accept (s : State) (p : Presented) (rest : List Presented) :
    liveVariant (accept s p rest) = liveVariant s := rfl

/-! ### `liveVariant` -/

theorem liveVariant_of_cart {s : State} {c : Cart} (h : s.cart = some c) :
    liveVariant s = some (match c.chip with | .m0 => .m0 | .m1 _ => .m1 | .m4 _ => .m4) := by
  simp only [liveVariant, h]; rfl

theorem liveVariant_m0 {s : State} {img : RomImage} (h : s.cart = some ⟨img, .m0⟩) : liveVariant s = some .m0 :=
  liveVariant_of_cart h

theorem liveVariant_m1 {s : State} {img : RomImage} {r : M1Regs} (h : s.cart = some ⟨img, .m1 r⟩) :
    liveVariant s = some .m1 := liveVariant_of_cart h

theorem liveVariant_m4 {s : State} {img : RomImage} {r : M4Regs} (h : s.cart = some ⟨img, .m4 r⟩) :
    liveVariant s = some .m4 := liveVariant_of_cart h

theorem liveVariant_none {s : State} (h : s.cart = none) : liveVariant s = none := by
  simp [liveVariant, h]

/-! ### M1 registers -/

@[simp] theorem readDest_writeDest_same (r : M1Regs) (d : SerialDest) (v : Byte) : readDest (writeDest r d v) d = v := by
  cases d <;> rfl

theorem readDest_writeDest_other (r : M1Regs) {d d' : SerialDest} (v : Byte) (h : d' ≠ d) :
    readDest (writeDest r d v) d' = readDest r d' := by
  cases d <;> cases d' <;> first | rfl | exact absurd rfl h

@[simp] theorem writeDest_accum (r : M1Regs) (d : SerialDest) (v : Byte) : (writeDest r d v).accum = r.accum := by
  cases d <;> rfl

@[simp] theorem writeDest_writeCount (r : M1Regs) (d : SerialDest) (v : Byte) : (writeDest r d v).writeCount = r.writeCount := by
  cases d <;> rfl

@[simp] theorem writeDest_prgRam (r : M1Regs) (d : SerialDest) (v : Byte) : (writeDest r d v).prgRam = r.prgRam := by
  cases d <;> rfl

@[simp] theorem writeDest_chrRam (r : M1Regs) (d : SerialDest) (v : Byte) : (writeDest r d v).chrRam = r.chrRam := by
  cases d <;> rfl

@[simp] theorem serialReset_ctrl (r : M1Regs) : (serialReset r).ctrl = r.ctrl ||| 0x0C := rfl

@[simp] theorem serialReset_chrBank0 (r : M1Regs) : (serialReset r).chrBank0 = r.chrBank0 := rfl

@[simp] theorem serialReset_chrBank1 (r : M1Regs) : (serialReset r).chrBank1 = r.chrBank1 := rfl

@[simp] theorem serialReset_prgBank (r : M1Regs) : (serialReset r).prgBank = r.prgBank := rfl

@[simp] theorem serialReset_accum (r : M1Regs) : (serialReset r).accum = 0 := rfl

@[simp] theorem serialReset_writeCount (r : M1Regs) : (serialReset r).writeCount = 0 := rfl

@[simp] theorem serialReset_prgRam (r : M1Regs) : (serialReset r).prgRam = r.prgRam := rfl

@[simp] theorem serialReset_chrRam (r : M1Regs) : (serialReset r).chrRam = r.chrRam := rfl

@[simp] theorem serialShift_prgRam (r : M1Regs) (d : SerialDest) (v : Byte) : (serialShift r d v).prgRam = r.prgRam := by
  unfold serialShift; split <;> simp

@[simp] theorem serialShift_chrRam (r : M1Regs) (d : SerialDest) (v : Byte) : (serialShift r d v).chrRam = r.chrRam := by
  unfold serialShift; split <;> simp

/-! ### M4 registers -/

@[simp] theorem readSlot_writeSlot_same (r : M4Regs) (sl : Slot) (v : Byte) : readSlot (writeSlot r sl v) sl = v := by
  cases sl <;> rfl

theorem readSlot_writeSlot_other (r : M4Regs) {sl sl' : Slot} (v : Byte) (h : sl' ≠ sl) :
    readSlot (writeSlot r sl v) sl' = readSlot r sl' := by
  cases sl <;> cases sl' <;> first | rfl | exact absurd rfl h

@[simp] theorem writeSlot_bankSelect (r : M4Regs) (sl : Slot) (v : Byte) :
    (writeSlot r sl v).bankSelect = r.bankSelect := by
  cases sl <;> rfl

@[simp] theorem writeSlot_prgRam (r : M4Regs) (sl : Slot) (v : Byte) : (writeSlot r sl v).prgRam = r.prgRam := by
  cases sl <;> rfl

@[simp] theorem writeSlot_writeSlot (r : M4Regs) (sl : Slot) (v w : Byte) :
    writeSlot (writeSlot r sl v) sl w = writeSlot r sl w := by
  cases sl <;> rfl

end Sys2Proof.Machine
end

