-- ==== Sys2Proof/Laws/Ops.lean ====
section
/-! SUPPORT. One spec lemma per shared operation: what it answers on a live chip, and everything it can do when it answers
a next state. -/

namespace Sys2Proof.Machine

/-! ### The premise of a transaction -/

theorem onM0_live {s : State} {img : RomImage} (h : s.liveM0 img) (k : Cart → Host.Outcome State Fault Refusal) :
    onM0 s k = k ⟨img, .m0⟩ := by
  simp [onM0, onLive, h.1, h.2]

theorem onM1_live {s : State} {img : RomImage} {r : M1Regs} (h : s.liveM1 img r)
    (k : Cart → M1Regs → Host.Outcome State Fault Refusal) : onM1 s k = k ⟨img, .m1 r⟩ r := by
  simp [onM1, onLive, h.1, h.2]

theorem onM4_live {s : State} {img : RomImage} {r : M4Regs} (h : s.liveM4 img r)
    (k : Cart → M4Regs → Host.Outcome State Fault Refusal) : onM4 s k = k ⟨img, .m4 r⟩ r := by
  simp [onM4, onLive, h.1, h.2]

theorem liveM0_accept {s : State} {p : Presented} {rest : List Presented} {img : RomImage} :
    (accept s p rest).liveM0 img ↔ s.liveM0 img := Iff.rfl

theorem liveM1_accept {s : State} {p : Presented} {rest : List Presented} {img : RomImage} {r : M1Regs} :
    (accept s p rest).liveM1 img r ↔ s.liveM1 img r := Iff.rfl

theorem liveM4_accept {s : State} {p : Presented} {rest : List Presented} {img : RomImage} {r : M4Regs} :
    (accept s p rest).liveM4 img r ↔ s.liveM4 img r := Iff.rfl

theorem onLive_next {s t : State} {k : Cart → Host.Outcome State Fault Refusal} (h : onLive s k = .next t) :
    s.fault = none ∧ ∃ c, s.cart = some c ∧ k c = .next t := by
  unfold onLive at h
  split at h
  · cases h
  · split at h
    · cases h
    · exact ⟨‹_›, _, ‹_›, h⟩

theorem onM0_next {s t : State} {k : Cart → Host.Outcome State Fault Refusal} (h : onM0 s k = .next t) :
    ∃ img, s.liveM0 img ∧ k ⟨img, .m0⟩ = .next t := by
  obtain ⟨hf, ⟨img, chip⟩, hc, hk⟩ := onLive_next h
  cases chip with
  | m0 => exact ⟨img, ⟨hf, hc⟩, hk⟩
  | m1 r => cases hk
  | m4 r => cases hk

theorem onM1_next {s t : State} {k : Cart → M1Regs → Host.Outcome State Fault Refusal} (h : onM1 s k = .next t) :
    ∃ img r, s.liveM1 img r ∧ k ⟨img, .m1 r⟩ r = .next t := by
  obtain ⟨hf, ⟨img, chip⟩, hc, hk⟩ := onLive_next h
  cases chip with
  | m1 r => exact ⟨img, r, ⟨hf, hc⟩, hk⟩
  | m0 => cases hk
  | m4 r => cases hk

theorem onM4_next {s t : State} {k : Cart → M4Regs → Host.Outcome State Fault Refusal} (h : onM4 s k = .next t) :
    ∃ img r, s.liveM4 img r ∧ k ⟨img, .m4 r⟩ r = .next t := by
  obtain ⟨hf, ⟨img, chip⟩, hc, hk⟩ := onLive_next h
  cases chip with
  | m4 r => exact ⟨img, r, ⟨hf, hc⟩, hk⟩
  | m0 => cases hk
  | m1 r => cases hk

/-! ### Physical stores -/

theorem readIn_of_lt {n off : Nat} {m : Memory} (h : off < n) : readIn n m off = some (Memory.read m off) := if_pos h

theorem writeIn_of_lt {n off : Nat} {m : Memory} {v : Byte} (h : off < n) :
    writeIn n m off v = some (Memory.write m off v) := if_pos h

theorem ramOk_nil : ramOk [] = true := rfl

/-- A RAM store keeps the RAM in canonical form inside its 8 KB. -/
theorem ramOk_write {m : Memory} {off : Nat} (v : Byte) (ho : off < size8K) (h : ramOk m = true) :
    ramOk (Memory.write m off v) = true := by
  simp only [ramOk, Bool.and_eq_true] at h ⊢
  exact ⟨Memory.write_wf off v h.1, Memory.write_below v ho h.2⟩

/-- A RAM store on a chip: which RAM, and that the offset lies inside it. -/
theorem memWrite_some {c c' : Cart} {st : PhysStore} {off : Nat} {v : Byte} (h : memWrite c st off v = some c') :
    off < size8K ∧ c'.image = c.image ∧
    ((st = .prgRam ∧ ∃ r, c.chip = .m1 r ∧ c'.chip = .m1 { r with prgRam := Memory.write r.prgRam off v }) ∨
     (st = .prgRam ∧ ∃ r, c.chip = .m4 r ∧ c'.chip = .m4 { r with prgRam := Memory.write r.prgRam off v }) ∨
     (st = .chrRam ∧ ∃ r, c.chip = .m1 r ∧ c'.chip = .m1 { r with chrRam := Memory.write r.chrRam off v })) := by
  obtain ⟨img, chip⟩ := c
  cases st <;> cases chip <;> simp only [memWrite, writeIn] at h <;> first | cases h | skip
  all_goals
    split at h
    · cases h; simp [*]
    · cases h

theorem memWrite_chrRam_m1 (img : RomImage) (r : M1Regs) {off : Nat} (v : Byte) (h : off < size8K) :
    memWrite ⟨img, .m1 r⟩ .chrRam off v = some ⟨img, .m1 { r with chrRam := Memory.write r.chrRam off v }⟩ := by
  simp [memWrite, writeIn_of_lt h]

theorem memWrite_prgRam_m4 (img : RomImage) (r : M4Regs) {off : Nat} (v : Byte) (h : off < size8K) :
    memWrite ⟨img, .m4 r⟩ .prgRam off v = some ⟨img, .m4 { r with prgRam := Memory.write r.prgRam off v }⟩ := by
  simp [memWrite, writeIn_of_lt h]

theorem memRead_chrRam_m1 (img : RomImage) (r : M1Regs) {off : Nat} (h : off < size8K) :
    memRead ⟨img, .m1 r⟩ .chrRam off = some (Memory.read r.chrRam off) := readIn_of_lt h

theorem memRead_prgRam_m4 (img : RomImage) (r : M4Regs) {off : Nat} (h : off < size8K) :
    memRead ⟨img, .m4 r⟩ .prgRam off = some (Memory.read r.prgRam off) := readIn_of_lt h

theorem memRead_prgRom (c : Cart) {off : Nat} (h : off < c.image.prgLen) :
    memRead c .prgRom off = some (Memory.read c.image.prg off) := readIn_of_lt h

/-! ### Results of loads and stores -/

/-- A load from a physical store: it returns the byte there and changes nothing but the output. -/
theorem loadRom_next {st : PhysStore} {off : Nat} {c : Cart} {s t : State} (h : loadRom st off c s = .next t) :
    ∃ b, memRead c st off = some b ∧ t = { s with out := some b, target := some (.rom st off) } := by
  unfold loadRom at h
  split at h
  · cases h; exact ⟨_, ‹_›, rfl⟩
  · cases h

theorem loadRam_next {st : PhysStore} {off : Nat} {c : Cart} {s t : State} (h : loadRam st off c s = .next t) :
    ∃ b, memRead c st off = some b ∧ t = { s with out := some b, target := some (.ram st off) } := by
  unfold loadRam at h
  split at h
  · cases h; exact ⟨_, ‹_›, rfl⟩
  · cases h

theorem storeRam_next {st : PhysStore} {off : Nat} {v : Byte} {c : Cart} {s t : State}
    (h : storeRam st off v c s = .next t) :
    ∃ c', memWrite c st off v = some c' ∧
      t = { s with out := none, target := some (.ram st off), cart := some c' } := by
  unfold storeRam at h
  split at h
  · cases h; exact ⟨_, ‹_›, rfl⟩
  · cases h

theorem loadRom_of_read {st : PhysStore} {off : Nat} {c : Cart} {s : State} {b : Byte} (h : memRead c st off = some b) :
    loadRom st off c s = .next { s with out := some b, target := some (.rom st off) } := by
  simp [loadRom, h, loadDone]

theorem loadRam_of_read {st : PhysStore} {off : Nat} {c : Cart} {s : State} {b : Byte} (h : memRead c st off = some b) :
    loadRam st off c s = .next { s with out := some b, target := some (.ram st off) } := by
  simp [loadRam, h, loadDone]

theorem storeRam_of_write {st : PhysStore} {off : Nat} {v : Byte} {c c' : Cart} {s : State}
    (h : memWrite c st off v = some c') :
    storeRam st off v c s = .next { s with out := none, target := some (.ram st off), cart := some c' } := by
  simp [storeRam, h, storeDone]

/-! ### The families' shared operations -/

/-- An M1 PRG load is the load of its window's bank: the mode decode never fails (R203). -/
theorem m1PrgLoad_eq (bank : PrgMode → Nat) (addr : Addr) (c : Cart) (r : M1Regs) (s : State) :
    ∃ mode, prgModeOf (ctrlPrgMode r.ctrl).toNat = some mode ∧
      m1PrgLoad bank addr c r s =
        loadRom .prgRom (prgOffset (bank mode) size16K (low14 addr) c.image.prgLen) c s := by
  obtain ⟨mode, h⟩ := prgModeOf_isSome r.ctrl
  exact ⟨mode, h, by simp [m1PrgLoad, h]⟩

theorem m1Shift_live {s : State} {img : RomImage} {r : M1Regs} (h : s.liveM1 img r) (d : SerialDest) (val : Byte) :
    m1Shift d val s = .next { s with
      out := none, target := some (.reg (.serial d)), cart := some ⟨img, .m1 (serialShift r d val)⟩ } := by
  rw [m1Shift, onM1_live h]; rfl

theorem lengthOk_iff (img : RomImage) :
    img.lengthOk = true ↔
      0 < img.prgLen ∧ img.prgLen % 16384 = 0 ∧ ∀ n, img.headerBanks = some n → n = img.prgLen / 16384 := by
  unfold RomImage.lengthOk RomImage.prgBanks16
  cases img.headerBanks <;> simp [and_assoc]

/-- An image construction accepts holds at least 16 KB (R6). -/
theorem prgLen_ge_of_lengthOk {img : RomImage} (h : img.lengthOk = true) : 16384 ≤ img.prgLen := by
  have := (lengthOk_iff img).1 h; omega

end Sys2Proof.Machine
end

