-- ==== Sys2Proof/Laws/PerInstr.lean ====
section
/-! SUPPORT. Facts proved for every instruction, one lemma per constructor. Family `Fields`: the word an instruction
encodes to carries exactly its space, direction, address and data (R91, R96). -/

namespace Sys2Proof.Laws.Fields

/-- The components of an instruction's transaction (R90), a load's data being the canonical 0 (R91). -/
def operands : Instr → Option (Space × Dir × Addr × Byte)
  | .m0PldLow a => some (.prg, .load, a, 0)
  | .m0PldRom a => some (.prg, .load, a, 0)
  | .m0Pst a v => some (.prg, .store, a, v)
  | .m0Cld a => some (.chr, .load, a, 0)
  | .m0CldHighA a => some (.chr, .load, a, 0)
  | .m0CldHighB a => some (.chr, .load, a, 0)
  | .m0CldHighC a => some (.chr, .load, a, 0)
  | .m0Cst a v => some (.chr, .store, a, v)
  | .m1PldLow a => some (.prg, .load, a, 0)
  | .m1PldB8 a => some (.prg, .load, a, 0)
  | .m1PldBC a => some (.prg, .load, a, 0)
  | .m1PstLow a v => some (.prg, .store, a, v)
  | .m1PstReset a v => some (.prg, .store, a, v)
  | .m1PstShiftCtrl a v => some (.prg, .store, a, v)
  | .m1PstShiftChr0 a v => some (.prg, .store, a, v)
  | .m1PstShiftChr1 a v => some (.prg, .store, a, v)
  | .m1PstShiftPrg a v => some (.prg, .store, a, v)
  | .m1Cld a => some (.chr, .load, a, 0)
  | .m1CldHighA a => some (.chr, .load, a, 0)
  | .m1CldHighB a => some (.chr, .load, a, 0)
  | .m1CldHighC a => some (.chr, .load, a, 0)
  | .m1Cst a v => some (.chr, .store, a, v)
  | .m1CstHighA a v => some (.chr, .store, a, v)
  | .m1CstHighB a v => some (.chr, .store, a, v)
  | .m1CstHighC a v => some (.chr, .store, a, v)
  | .m4PldLowA a => some (.prg, .load, a, 0)
  | .m4PldLowB a => some (.prg, .load, a, 0)
  | .m4PldRam a => some (.prg, .load, a, 0)
  | .m4PldW8 a => some (.prg, .load, a, 0)
  | .m4PldWA a => some (.prg, .load, a, 0)
  | .m4PldWC a => some (.prg, .load, a, 0)
  | .m4PldWE a => some (.prg, .load, a, 0)
  | .m4PstLowA a v => some (.prg, .store, a, v)
  | .m4PstLowB a v => some (.prg, .store, a, v)
  | .m4PstRam a v => some (.prg, .store, a, v)
  | .m4PstSelect a v => some (.prg, .store, a, v)
  | .m4PstData a v => some (.prg, .store, a, v)
  | .m4PstHighA a v => some (.prg, .store, a, v)
  | .m4PstHighB a v => some (.prg, .store, a, v)
  | .m4Cld a => some (.chr, .load, a, 0)
  | .m4CldHighA a => some (.chr, .load, a, 0)
  | .m4CldHighB a => some (.chr, .load, a, 0)
  | .m4CldHighC a => some (.chr, .load, a, 0)
  | .m4Cst a v => some (.chr, .store, a, v)
  | .construct _ => none

/-- The fields of the encoded word are the instruction's operands; a construction has no word (R92). -/
def Statement (i : Instr) : Prop :=
  match operands i, encode i with
  | some (sp, rw, a, v), .word tw => spaceOf tw = sp ∧ dirOf tw = rw ∧ addrOf tw = a ∧ valOf tw = v
  | none, .construct img => i = .construct img
  | _, _ => False

theorem word_fields (sp : Space) (rw : Dir) (a : Addr) (v : Byte) :
    spaceOf (packTx sp rw a v) = sp ∧ dirOf (packTx sp rw a v) = rw ∧ addrOf (packTx sp rw a v) = a ∧
      valOf (packTx sp rw a v) = v :=
  ⟨spaceOf_packTx .., dirOf_packTx .., addrOf_packTx .., valOf_packTx ..⟩

theorem m0PldLow (addr : Addr) : Statement (.m0PldLow addr) := word_fields ..

theorem m0PldRom (addr : Addr) : Statement (.m0PldRom addr) := word_fields ..

theorem m0Pst (addr : Addr) (val : Byte) : Statement (.m0Pst addr val) := word_fields ..

theorem m0Cld (addr : Addr) : Statement (.m0Cld addr) := word_fields ..

theorem m0CldHighA (addr : Addr) : Statement (.m0CldHighA addr) := word_fields ..

theorem m0CldHighB (addr : Addr) : Statement (.m0CldHighB addr) := word_fields ..

theorem m0CldHighC (addr : Addr) : Statement (.m0CldHighC addr) := word_fields ..

theorem m0Cst (addr : Addr) (val : Byte) : Statement (.m0Cst addr val) := word_fields ..

theorem m1PldLow (addr : Addr) : Statement (.m1PldLow addr) := word_fields ..

theorem m1PldB8 (addr : Addr) : Statement (.m1PldB8 addr) := word_fields ..

theorem m1PldBC (addr : Addr) : Statement (.m1PldBC addr) := word_fields ..

theorem m1PstLow (addr : Addr) (val : Byte) : Statement (.m1PstLow addr val) := word_fields ..

theorem m1PstReset (addr : Addr) (val : Byte) : Statement (.m1PstReset addr val) := word_fields ..

theorem m1PstShiftCtrl (addr : Addr) (val : Byte) : Statement (.m1PstShiftCtrl addr val) := word_fields ..

theorem m1PstShiftChr0 (addr : Addr) (val : Byte) : Statement (.m1PstShiftChr0 addr val) := word_fields ..

theorem m1PstShiftChr1 (addr : Addr) (val : Byte) : Statement (.m1PstShiftChr1 addr val) := word_fields ..

theorem m1PstShiftPrg (addr : Addr) (val : Byte) : Statement (.m1PstShiftPrg addr val) := word_fields ..

theorem m1Cld (addr : Addr) : Statement (.m1Cld addr) := word_fields ..

theorem m1CldHighA (addr : Addr) : Statement (.m1CldHighA addr) := word_fields ..

theorem m1CldHighB (addr : Addr) : Statement (.m1CldHighB addr) := word_fields ..

theorem m1CldHighC (addr : Addr) : Statement (.m1CldHighC addr) := word_fields ..

theorem m1Cst (addr : Addr) (val : Byte) : Statement (.m1Cst addr val) := word_fields ..

theorem m1CstHighA (addr : Addr) (val : Byte) : Statement (.m1CstHighA addr val) := word_fields ..

theorem m1CstHighB (addr : Addr) (val : Byte) : Statement (.m1CstHighB addr val) := word_fields ..

theorem m1CstHighC (addr : Addr) (val : Byte) : Statement (.m1CstHighC addr val) := word_fields ..

theorem m4PldLowA (addr : Addr) : Statement (.m4PldLowA addr) := word_fields ..

theorem m4PldLowB (addr : Addr) : Statement (.m4PldLowB addr) := word_fields ..

theorem m4PldRam (addr : Addr) : Statement (.m4PldRam addr) := word_fields ..

theorem m4PldW8 (addr : Addr) : Statement (.m4PldW8 addr) := word_fields ..

theorem m4PldWA (addr : Addr) : Statement (.m4PldWA addr) := word_fields ..

theorem m4PldWC (addr : Addr) : Statement (.m4PldWC addr) := word_fields ..

theorem m4PldWE (addr : Addr) : Statement (.m4PldWE addr) := word_fields ..

theorem m4PstLowA (addr : Addr) (val : Byte) : Statement (.m4PstLowA addr val) := word_fields ..

theorem m4PstLowB (addr : Addr) (val : Byte) : Statement (.m4PstLowB addr val) := word_fields ..

theorem m4PstRam (addr : Addr) (val : Byte) : Statement (.m4PstRam addr val) := word_fields ..

theorem m4PstSelect (addr : Addr) (val : Byte) : Statement (.m4PstSelect addr val) := word_fields ..

theorem m4PstData (addr : Addr) (val : Byte) : Statement (.m4PstData addr val) := word_fields ..

theorem m4PstHighA (addr : Addr) (val : Byte) : Statement (.m4PstHighA addr val) := word_fields ..

theorem m4PstHighB (addr : Addr) (val : Byte) : Statement (.m4PstHighB addr val) := word_fields ..

theorem m4Cld (addr : Addr) : Statement (.m4Cld addr) := word_fields ..

theorem m4CldHighA (addr : Addr) : Statement (.m4CldHighA addr) := word_fields ..

theorem m4CldHighB (addr : Addr) : Statement (.m4CldHighB addr) := word_fields ..

theorem m4CldHighC (addr : Addr) : Statement (.m4CldHighC addr) := word_fields ..

theorem m4Cst (addr : Addr) (val : Byte) : Statement (.m4Cst addr val) := word_fields ..

theorem construct (image : RomImage) : Statement (.construct image) := rfl

end Sys2Proof.Laws.Fields
end

