-- ==== Sys2Proof/Laws/Step.lean ====
section
/-! SUPPORT. What a step can do, said once: the operation it runs, and for each variant everything a transaction can do
when it answers a next state. -/

namespace Sys2Proof.Machine

/-- A step runs the decoded form of what is presented next. -/
theorem step_next {s t : State} (h : step s = .next t) :
    ∃ p rest i, s.pending = p :: rest ∧ decode (liveVariant s) p = .ok i ∧ exec i (accept s p rest) = .next t := by
  unfold step at h
  split at h
  · cases h
  · split at h
    · exact ⟨_, _, _, ‹_›, ‹_›, h⟩
    · cases h

theorem step_of_decode {s : State} {p : Presented} {rest : List Presented} {i : Instr} (hp : s.pending = p :: rest)
    (hd : decode (liveVariant s) p = .ok i) : step s = exec i (accept s p rest) := by
  simp [step, hp, hd]

/-- A word presented on a live chip runs the class of that chip. -/
theorem step_word {s : State} {tw : TxWord} {rest : List Presented} {v : Variant}
    (hp : s.pending = .word tw :: rest) (hv : liveVariant s = some v) :
    step s = exec (classify v (spaceOf tw) (dirOf tw) (addrOf tw) (valOf tw)) (accept s (.word tw) rest) :=
  step_of_decode hp (by rw [hv]; rfl)

/-- A word has a step only on a live chip. -/
theorem step_word_next {s t : State} {tw : TxWord} {rest : List Presented}
    (hp : s.pending = .word tw :: rest) (h : step s = .next t) :
    ∃ v, liveVariant s = some v ∧
      exec (classify v (spaceOf tw) (dirOf tw) (addrOf tw) (valOf tw)) (accept s (.word tw) rest) = .next t := by
  obtain ⟨p, rest', i, hp', hd, he⟩ := step_next h
  rw [hp] at hp'
  cases hp'
  cases hv : liveVariant s with
  | none => rw [hv] at hd; cases hd
  | some v => rw [hv] at hd; cases hd; exact ⟨v, rfl, he⟩

/-! ### Every transaction of a variant -/

/-- M0: a load only drives the output, a store is ignored (R121 to R126). -/
theorem m0_next {s t : State} {sp : Space} {rw : Dir} {a : Addr} {v : Byte}
    (h : exec (classifyM0 sp rw a v) s = .next t) :
    ∃ img, s.liveM0 img ∧
      ((rw = .load ∧ ∃ b tgt, t = { s with out := some b, target := some tgt }) ∨
       (rw = .store ∧ t = { s with out := none, target := some .ignore })) := by
  cases sp <;> cases rw <;> simp only [classifyM0, chrPieces] at h <;> repeat' split at h
  all_goals
    obtain ⟨img, hl, hk⟩ := onM0_next h
    refine ⟨img, hl, ?_⟩
    first
      | (cases hk; exact .inr ⟨rfl, rfl⟩)
      | (cases hk; exact .inl ⟨rfl, _, _, rfl⟩)
      | (obtain ⟨b, -, rfl⟩ := loadRom_next hk; exact .inl ⟨rfl, b, _, rfl⟩)

/-- M1: a load only drives the output; a store is a reset write, a qualifying write, a CHR-RAM store, or ignored
(R142 to R159). -/
theorem m1_next {s t : State} {sp : Space} {rw : Dir} {a : Addr} {v : Byte}
    (h : exec (classifyM1 sp rw a v) s = .next t) :
    ∃ img r, s.liveM1 img r ∧
      ((rw = .load ∧ ∃ b tgt, t = { s with out := some b, target := some tgt }) ∨
       (rw = .store ∧ ¬ (sp = .prg ∧ 0x8000 ≤ a.toNat) ∧ t = { s with out := none, target := some .ignore }) ∨
       (rw = .store ∧ sp = .prg ∧ 0x8000 ≤ a.toNat ∧ v.getLsbD 7 = true ∧ ∃ tgt,
          t = { s with out := none, target := some (.reg tgt), cart := some ⟨img, .m1 (serialReset r)⟩ }) ∨
       (rw = .store ∧ sp = .prg ∧ 0x8000 ≤ a.toNat ∧ v.getLsbD 7 = false ∧ ∃ d,
          t = { s with out := none, target := some (.reg (.serial d)), cart := some ⟨img, .m1 (serialShift r d v)⟩ }) ∨
       (rw = .store ∧ sp = .chr ∧ a.toNat < 0x2000 ∧
          t = { s with out := none, target := some (.ram .chrRam a.toNat)
                       cart := some ⟨img, .m1 { r with chrRam := Memory.write r.chrRam a.toNat v }⟩ })) := by
  cases sp <;> cases rw <;> simp only [classifyM1, chrPieces] at h <;> repeat' split at h
  all_goals
    obtain ⟨img, r, hl, hk⟩ := onM1_next h
    refine ⟨img, r, hl, ?_⟩
    first
      | (cases hk; exact .inr (.inl ⟨rfl, fun h => by simp at h <;> omega, rfl⟩))
      | (cases hk; exact .inl ⟨rfl, _, _, rfl⟩)
      | (obtain ⟨mode, -, he⟩ := m1PrgLoad_eq _ a ⟨img, .m1 r⟩ r s
         rw [he] at hk
         obtain ⟨b, -, rfl⟩ := loadRom_next hk; exact .inl ⟨rfl, b, _, rfl⟩)
      | (obtain ⟨b, -, rfl⟩ := loadRam_next hk; exact .inl ⟨rfl, b, _, rfl⟩)
      | (cases hk; exact .inr (.inr (.inl ⟨rfl, rfl, by omega, by simp_all, _, rfl⟩)))
      | (cases hk; exact .inr (.inr (.inr (.inl ⟨rfl, rfl, by omega, by simp_all, _, rfl⟩))))
      | (rw [storeRam_of_write (memWrite_chrRam_m1 img r v ‹_›)] at hk
         cases hk
         exact .inr (.inr (.inr (.inr ⟨rfl, rfl, ‹_›, rfl⟩))))

/-- M4: a load only drives the output; a store is a PRG-RAM store, a bank select write, a bank data write, or ignored
(R171 to R189). -/
theorem m4_next {s t : State} {sp : Space} {rw : Dir} {a : Addr} {v : Byte}
    (h : exec (classifyM4 sp rw a v) s = .next t) :
    ∃ img r, s.liveM4 img r ∧
      ((rw = .load ∧ ∃ b tgt, t = { s with out := some b, target := some tgt }) ∨
       (rw = .store ∧ t = { s with out := none, target := some .ignore } ∧
          ¬ (sp = .prg ∧ a.toNat / 8192 = 3) ∧ ¬ (sp = .prg ∧ a.toNat / 8192 = 4)) ∨
       (rw = .store ∧ sp = .prg ∧ a.toNat / 8192 = 3 ∧
          t = { s with out := none, target := some (.ram .prgRam (low13 a))
                       cart := some ⟨img, .m4 { r with prgRam := Memory.write r.prgRam (low13 a) v }⟩ }) ∨
       (rw = .store ∧ sp = .prg ∧ a.toNat / 8192 = 4 ∧ a.getLsbD 0 = false ∧
          t = { s with out := none, target := some (.reg .bankSelect)
                       cart := some ⟨img, .m4 { r with bankSelect := v }⟩ }) ∨
       (rw = .store ∧ sp = .prg ∧ a.toNat / 8192 = 4 ∧ a.getLsbD 0 = true ∧ ∃ sl,
          slotOf (updateSelect r.bankSelect).toNat = some sl ∧
          t = { s with out := none, target := some (.reg (.slot sl)), cart := some ⟨img, .m4 (writeSlot r sl v)⟩ })) := by
  cases sp <;> cases rw <;> simp only [classifyM4, chrPieces] at h <;> repeat' split at h
  all_goals
    obtain ⟨img, r, hl, hk⟩ := onM4_next h
    refine ⟨img, r, hl, ?_⟩
    first
      | (cases hk; exact .inr (.inl ⟨rfl, rfl, fun h => by simp at h <;> omega, fun h => by simp at h <;> omega⟩))
      | (cases hk; exact .inl ⟨rfl, _, _, rfl⟩)
      | (obtain ⟨b, -, rfl⟩ := loadRom_next hk; exact .inl ⟨rfl, b, _, rfl⟩)
      | (obtain ⟨b, -, rfl⟩ := loadRam_next hk; exact .inl ⟨rfl, b, _, rfl⟩)
      | (rw [storeRam_of_write (memWrite_prgRam_m4 img r v (low13_lt a))] at hk
         cases hk
         exact .inr (.inr (.inl ⟨rfl, rfl, by omega, rfl⟩)))
      | (cases hk; exact .inr (.inr (.inr (.inl ⟨rfl, rfl, by omega, by simp_all, rfl⟩))))
      | (obtain ⟨sl, hsl⟩ := slotOf_isSome r.bankSelect
         simp only [hsl, storeDone] at hk
         cases hk
         exact .inr (.inr (.inr (.inr ⟨rfl, rfl, by omega, by simp_all, sl, hsl, rfl⟩))))

end Sys2Proof.Machine
end

