-- ==== Sys2Proof/Tests/Slice0.lean ====
section
/-! SUPPORT. The model's own tests: the well-formedness checks, the decoder on words taken from the spec, one step of
each instruction, and a witness for the hypotheses of each statement. Expected values are those of
spec/95_test_vectors.md ("95") and spec/96_test_programs.md ("96"); a comment names the section. -/

namespace Sys2Proof.Tests

open Sys2Proof.Machine

/-! ### Helpers -/

/-- The byte formula of the test PRG images (95 section 1). -/
def prgByte (i : Nat) : Byte := BitVec.ofNat 8 (i / 8192 % 16 * 16 + i % 16)

/-- The byte formula of the test CHR images (95 section 1). -/
def chrByte (i : Nat) : Byte := BitVec.ofNat 8 (i / 1024 % 16 * 16 + i % 16)

/-- Cells of the given offsets, in canonical form. -/
def cells (byte : Nat → Byte) (offs : List Nat) : Memory :=
  (offs.map fun i => (i, byte i)).filter fun c => c.2 != 0

/-- An image of the test formula that lists bytes at offsets 0, 3 and 0x1FFF of each 8 KB PRG slice, and the ends of the
CHR image. -/
def testImage (id prgLen chrLen : Nat) : RomImage :=
  { mapperId := id, prgLen := prgLen, chrLen := chrLen, headerBanks := none, mirrorHint := 0
    prg := cells prgByte ((List.range (prgLen / 8192)).flatMap fun k => [k * 8192, k * 8192 + 3, k * 8192 + 8191])
    chr := cells chrByte ([0x0001, 0x0FFF, 0x1000, 0x1FFF].filter fun i => i < chrLen) }

/-- A state with a live chip and nothing presented. -/
def live (img : RomImage) (chip : Chip) : State := { State.reset with cart := some ⟨img, chip⟩ }

def m0 (prgLen chrLen : Nat) : State := live (testImage 0 prgLen chrLen) .m0

def m1 (r : M1Regs) : State := live (testImage 1 131072 8192) (.m1 r)

def m4 (r : M4Regs) : State := live (testImage 4 131072 8192) (.m4 r)

/-- The smallest images, for witnesses that name a next state. -/
def smallM1 : State := live (testImage 1 16384 0) (.m1 m1Reset)

def smallM4 : State := live (testImage 4 16384 0) (.m4 m4Reset)

/-- The next state, if there is one. -/
def next? : Host.Outcome State Fault Refusal → Option State
  | .next s => some s
  | .fault _ => none
  | .refused _ => none

theorem exists_next {o : Host.Outcome State Fault Refusal} (h : (next? o).isSome = true) : ∃ t, o = .next t := by
  cases o with
  | next t => exact ⟨t, rfl⟩
  | fault _ => cases h
  | refused _ => cases h

def fault? : Host.Outcome State Fault Refusal → Option Fault
  | .next _ => none
  | .fault f => some f
  | .refused _ => none

def refusal? : Host.Outcome State Fault Refusal → Option Refusal
  | .next _ => none
  | .fault _ => none
  | .refused r => some r

def present (s : State) (tw : TxWord) : State := { s with pending := [.word tw] }

/-- The state after one step with the word `tw` presented. -/
def after (s : State) (tw : TxWord) : Option State := next? (step (present s tw))

/-- The byte the word `tw` returns; the inner `none` is a store's. -/
def returned (s : State) (tw : TxWord) : Option (Option Byte) := (after s tw).map fun t => t.out

/-- The chip after the word `tw`. -/
def chipAfter (s : State) (tw : TxWord) : Option Chip := (after s tw).bind fun t => t.cart.map fun c => c.chip

/-! ### WellFormed: an ill-formed term for each check -/

theorem test_wf_windows_refuse :
    [Instr.m0PldLow 0x8000, .m0PldRom 0x7FFF, .m0Cld 0x2000, .m0CldHighA 0x7FFF, .m0CldHighB 0x3FFF, .m0CldHighB 0x8000,
     .m0CldHighC 0x1FFF, .m0CldHighC 0x4000,
     .m1PldLow 0x8000, .m1PldB8 0x7FFF, .m1PldB8 0xC000, .m1PldBC 0xBFFF, .m1PstLow 0x8000 0, .m1PstReset 0x7FFF 0x80,
     .m1PstShiftCtrl 0x7FFF 0, .m1PstShiftCtrl 0xA000 0, .m1PstShiftChr0 0x9FFF 0, .m1PstShiftChr0 0xC000 0,
     .m1PstShiftChr1 0xBFFF 0, .m1PstShiftChr1 0xE000 0, .m1PstShiftPrg 0xDFFF 0,
     .m1Cld 0x2000, .m1CldHighA 0x7FFF, .m1CldHighB 0x8000, .m1CldHighC 0x4000,
     .m1Cst 0x2000 0, .m1CstHighA 0x7FFF 0, .m1CstHighB 0x8000 0, .m1CstHighC 0x1FFF 0,
     .m4PldLowA 0x4000, .m4PldLowB 0x3FFF, .m4PldLowB 0x6000, .m4PldRam 0x5FFF, .m4PldRam 0x8000, .m4PldW8 0x7FFF,
     .m4PldW8 0xA000, .m4PldWA 0x9FFF, .m4PldWA 0xC000, .m4PldWC 0xBFFF, .m4PldWC 0xE000, .m4PldWE 0xDFFF,
     .m4PstLowA 0x4000 0, .m4PstLowB 0x6000 0, .m4PstRam 0x8000 0, .m4PstSelect 0xA000 0, .m4PstData 0x7FFF 0,
     .m4PstHighA 0x9FFF 0, .m4PstHighB 0xBFFF 0, .m4Cld 0x2000, .m4CldHighA 0x7FFF, .m4CldHighB 0x8000,
     .m4CldHighC 0x4000].all (fun i => i.wf == false) = true := by decide

theorem test_wf_data_and_address_bits_refuse :
    [Instr.m1PstReset 0x8000 0x7F, .m1PstShiftCtrl 0x8000 0x80, .m1PstShiftChr0 0xA000 0x80, .m1PstShiftChr1 0xC000 0x80,
     .m1PstShiftPrg 0xE000 0x80, .m4PstSelect 0x8001 0, .m4PstData 0x8000 0].all (fun i => i.wf == false) = true := by
  decide

theorem test_wf_construct_refuses :
    [Instr.construct { testImage 0 16384 0 with prg := [(1, 0)] },
     .construct { testImage 0 16384 0 with prg := [(2, 1), (1, 1)] },
     .construct { testImage 0 16384 0 with prg := [(16384, 1)] },
     .construct { testImage 0 16384 0 with chr := [(0, 1)] }].all (fun i => i.wf == false) = true ∧
    (Instr.construct (testImage 0 16384 0)).wf = true := by decide

/-! ### Decoding -/

/-- Each field written out bit by bit from R91: space, rw, addr, val. -/
theorem test_decode_bits :
    decode (some .m0) (.word (0b0#1 ++ 0b0#1 ++ 0b1000000000000000#16 ++ 0b00000000#8)) = .ok (.m0PldRom 0x8000) ∧
    decode (some .m1) (.word (0b0#1 ++ 0b1#1 ++ 0b1010000000000001#16 ++ 0b01111111#8)) =
      .ok (.m1PstShiftChr0 0xA001 0x7F) ∧
    decode (some .m4) (.word (0b0#1 ++ 0b1#1 ++ 0b1000000000000001#16 ++ 0b01000110#8)) = .ok (.m4PstData 0x8001 0x46) ∧
    decode (some .m1) (.word (0b1#1 ++ 0b1#1 ++ 0b0001111111111111#16 ++ 0b10000000#8)) = .ok (.m1Cst 0x1FFF 0x80) ∧
    decode (some .m4) (.word (0b1#1 ++ 0b0#1 ++ 0b0100000000000000#16 ++ 0b00000000#8)) = .ok (.m4CldHighB 0x4000) := by
  decide

/-- 96 section 2, M0. -/
theorem test_decode_m0 :
    decode (some .m0) (.word 0x07FFF00) = .ok (.m0PldLow 0x7FFF) ∧
    decode (some .m0) (.word 0x0800000) = .ok (.m0PldRom 0x8000) ∧
    decode (some .m0) (.word 0x10000FF) = .ok (.m0Pst 0x0000 0xFF) ∧
    decode (some .m0) (.word 0x1FFFF00) = .ok (.m0Pst 0xFFFF 0x00) ∧
    decode (some .m0) (.word 0x21FFF00) = .ok (.m0Cld 0x1FFF) ∧
    decode (some .m0) (.word 0x2200000) = .ok (.m0CldHighC 0x2000) ∧
    decode (some .m0) (.word 0x2400000) = .ok (.m0CldHighB 0x4000) ∧
    decode (some .m0) (.word 0x2800000) = .ok (.m0CldHighA 0x8000) ∧
    decode (some .m0) (.word 0x3000001) = .ok (.m0Cst 0x0000 0x01) ∧
    decode (some .m0) (.word 0x08000FF) = .ok (.m0PldRom 0x8000) := by decide

/-- 96 section 2, M1; the rows CLD.HIGH_a and _b from 95 section 3 and R96. -/
theorem test_decode_m1 :
    decode (some .m1) (.word 0x07FFF00) = .ok (.m1PldLow 0x7FFF) ∧
    decode (some .m1) (.word 0x0BFFF00) = .ok (.m1PldB8 0xBFFF) ∧
    decode (some .m1) (.word 0x0C00000) = .ok (.m1PldBC 0xC000) ∧
    decode (some .m1) (.word 0x17FFF80) = .ok (.m1PstLow 0x7FFF 0x80) ∧
    decode (some .m1) (.word 0x1800080) = .ok (.m1PstReset 0x8000 0x80) ∧
    decode (some .m1) (.word 0x19FFF00) = .ok (.m1PstShiftCtrl 0x9FFF 0x00) ∧
    decode (some .m1) (.word 0x1BFFF01) = .ok (.m1PstShiftChr0 0xBFFF 0x01) ∧
    decode (some .m1) (.word 0x1DFFF01) = .ok (.m1PstShiftChr1 0xDFFF 0x01) ∧
    decode (some .m1) (.word 0x1E00000) = .ok (.m1PstShiftPrg 0xE000 0x00) ∧
    decode (some .m1) (.word 0x21FFF00) = .ok (.m1Cld 0x1FFF) ∧
    decode (some .m1) (.word 0x2FFFF00) = .ok (.m1CldHighA 0xFFFF) ∧
    decode (some .m1) (.word 0x2400000) = .ok (.m1CldHighB 0x4000) ∧
    decode (some .m1) (.word 0x2200000) = .ok (.m1CldHighC 0x2000) ∧
    decode (some .m1) (.word 0x31FFF80) = .ok (.m1Cst 0x1FFF 0x80) ∧
    decode (some .m1) (.word 0x3800000) = .ok (.m1CstHighA 0x8000 0x00) ∧
    decode (some .m1) (.word 0x3400000) = .ok (.m1CstHighB 0x4000 0x00) ∧
    decode (some .m1) (.word 0x3200000) = .ok (.m1CstHighC 0x2000 0x00) := by decide

/-- 96 section 2, M4, loads and CHR transactions; the rows CLD.HIGH_a and _b from 95 section 3 and R96. -/
theorem test_decode_m4_loads :
    decode (some .m4) (.word 0x03FFF00) = .ok (.m4PldLowA 0x3FFF) ∧
    decode (some .m4) (.word 0x0400000) = .ok (.m4PldLowB 0x4000) ∧
    decode (some .m4) (.word 0x07FFF00) = .ok (.m4PldRam 0x7FFF) ∧
    decode (some .m4) (.word 0x0800000) = .ok (.m4PldW8 0x8000) ∧
    decode (some .m4) (.word 0x0A00000) = .ok (.m4PldWA 0xA000) ∧
    decode (some .m4) (.word 0x0C00000) = .ok (.m4PldWC 0xC000) ∧
    decode (some .m4) (.word 0x0E00000) = .ok (.m4PldWE 0xE000) ∧
    decode (some .m4) (.word 0x21FFF00) = .ok (.m4Cld 0x1FFF) ∧
    decode (some .m4) (.word 0x2FFFF00) = .ok (.m4CldHighA 0xFFFF) ∧
    decode (some .m4) (.word 0x2400000) = .ok (.m4CldHighB 0x4000) ∧
    decode (some .m4) (.word 0x2200000) = .ok (.m4CldHighC 0x2000) ∧
    decode (some .m4) (.word 0x3FFFF00) = .ok (.m4Cst 0xFFFF 0x00) := by decide

/-- 96 section 2, M4, PRG stores. -/
theorem test_decode_m4_stores :
    decode (some .m4) (.word 0x13FFF01) = .ok (.m4PstLowA 0x3FFF 0x01) ∧
    decode (some .m4) (.word 0x15FFF01) = .ok (.m4PstLowB 0x5FFF 0x01) ∧
    decode (some .m4) (.word 0x1600001) = .ok (.m4PstRam 0x6000 0x01) ∧
    decode (some .m4) (.word 0x19FFE00) = .ok (.m4PstSelect 0x9FFE 0x00) ∧
    decode (some .m4) (.word 0x19FFF00) = .ok (.m4PstData 0x9FFF 0x00) ∧
    decode (some .m4) (.word 0x1A00100) = .ok (.m4PstHighA 0xA001 0x00) ∧
    decode (some .m4) (.word 0x1BFFF00) = .ok (.m4PstHighA 0xBFFF 0x00) ∧
    decode (some .m4) (.word 0x1C00000) = .ok (.m4PstHighB 0xC000 0x00) := by decide

/-- R92: a construction has no word, and no rows apply to a word when no chip is live. -/
theorem test_decode_without_chip :
    decode none (.construct (testImage 0 16384 0)) = .ok (.construct (testImage 0 16384 0)) ∧
    decode none (.word 0x0800000) = .error .noLiveVariant := by decide

/-- The pseudo-operations of R102: `SER5 $E000, #$0B` and `SLOT #6, #2` (96, P4). -/
theorem test_pseudo_operations :
    opSer5 0xE000 0x0B = [.word 0x1E00001, .word 0x1E00001, .word 0x1E00000, .word 0x1E00001, .word 0x1E00000] ∧
    opSlot 6 2 = [.word 0x1800006, .word 0x1800102] ∧ opSrst = [.word 0x1800080] := by decide

/-! ### M0 (95 section 3.2) -/

theorem test_m0_pld_low : returned (m0 32768 8192) 0x07FFF00 = some (some 0x00) := by decide

theorem test_m0_pld_rom :
    returned (m0 16384 8192) 0x0FFFF00 = some (some 0x1F) ∧ returned (m0 32768 8192) 0x0FFFF00 = some (some 0x3F) ∧
    returned (m0 49152 4096) 0x0FFFF00 = some (some 0x3F) ∧ returned (m0 32768 8192) 0x0C00000 = some (some 0x20) := by
  decide

theorem test_m0_pst :
    returned (m0 32768 8192) 0x1FFFF00 = some none ∧ chipAfter (m0 32768 8192) 0x1FFFF00 = some .m0 := by decide

theorem test_m0_cld :
    returned (m0 16384 8192) 0x21FFF00 = some (some 0x7F) ∧ returned (m0 49152 4096) 0x20FFF00 = some (some 0x3F) ∧
    returned (m0 49152 4096) 0x2100000 = some (some 0x00) := by decide

theorem test_m0_cld_high :
    returned (m0 32768 8192) 0x2200000 = some (some 0) ∧ returned (m0 32768 8192) 0x2400000 = some (some 0) ∧
    returned (m0 32768 8192) 0x2FFFF00 = some (some 0) := by decide

theorem test_m0_cst : returned (m0 32768 8192) 0x3000099 = some none := by decide

/-! ### M1 (95 section 3.3, 96 P2 and P3) -/

theorem test_m1_pld_low :
    returned (m1 { m1Reset with prgRam := [(0, 0x55)] }) 0x0600000 = some (some 0x00) := by decide

theorem test_m1_pld_b8 :
    returned (m1 { m1Reset with prgBank := 11 }) 0x0800000 = some (some 0x60) ∧
    returned (m1 { m1Reset with ctrl := 0x08, prgBank := 3 }) 0x0BFFF00 = some (some 0x1F) ∧
    returned (m1 { m1Reset with ctrl := 0x04, prgBank := 5 }) 0x0800000 = some (some 0x80) ∧
    returned (m1 { m1Reset with ctrl := 0x00, prgBank := 31 }) 0x0BFFF00 = some (some 0xDF) := by decide

theorem test_m1_pld_bc :
    returned (m1 { m1Reset with prgBank := 3 }) 0x0FFFF00 = some (some 0xFF) ∧
    returned (m1 { m1Reset with ctrl := 0x08, prgBank := 3 }) 0x0C00000 = some (some 0x60) ∧
    returned (m1 { m1Reset with ctrl := 0x13, prgBank := 11 }) 0x0FFFF00 = some (some 0x7F) ∧
    returned (live (testImage 1 49152 0) (.m1 { m1Reset with ctrl := 0x00, prgBank := 2 })) 0x0C00000 =
      some (some 0x00) := by decide

theorem test_m1_pst_low :
    chipAfter (m1 { m1Reset with accum := 1, writeCount := 1 }) 0x17FFF80 =
      some (.m1 { m1Reset with accum := 1, writeCount := 1 }) := by decide

theorem test_m1_pst_reset :
    chipAfter (m1 { m1Reset with ctrl := 0x12, accum := 7, writeCount := 3 }) 0x1FFFF80 =
      some (.m1 { m1Reset with ctrl := 0x1E }) := by decide

theorem test_m1_pst_shift_ctrl :
    chipAfter (m1 { m1Reset with accum := 0x03, writeCount := 3 }) 0x1900003 =
      some (.m1 { m1Reset with accum := 0x0B, writeCount := 4 }) ∧
    chipAfter (m1 { m1Reset with accum := 0x0B, writeCount := 4 }) 0x1800000 = some (.m1 { m1Reset with ctrl := 0x0B }) := by
  decide

theorem test_m1_pst_shift_chr0 :
    chipAfter (m1 { m1Reset with accum := 1, writeCount := 1 }) 0x1A0007F =
      some (.m1 { m1Reset with accum := 3, writeCount := 2 }) ∧
    chipAfter (m1 { m1Reset with accum := 5, writeCount := 4 }) 0x1BFFF01 = some (.m1 { m1Reset with chrBank0 := 0x15 }) := by
  decide

theorem test_m1_pst_shift_chr1 :
    chipAfter (m1 { m1Reset with accum := 3, writeCount := 2 }) 0x1C0007E =
      some (.m1 { m1Reset with accum := 3, writeCount := 3 }) ∧
    chipAfter (m1 { m1Reset with accum := 5, writeCount := 4 }) 0x1C00001 = some (.m1 { m1Reset with chrBank1 := 0x15 }) := by
  decide

theorem test_m1_pst_shift_prg :
    chipAfter (m1 m1Reset) 0x1E00001 = some (.m1 { m1Reset with accum := 1, writeCount := 1 }) ∧
    chipAfter (m1 { m1Reset with accum := 0x0B, writeCount := 4 }) 0x1E00000 =
      some (.m1 { m1Reset with prgBank := 0x0B }) := by decide

theorem test_m1_cld :
    returned (m1 { m1Reset with chrRam := [(0x1FFF, 0x80)] }) 0x21FFF00 = some (some 0x80) ∧
    returned (m1 m1Reset) 0x21FFF00 = some (some 0x00) := by decide

theorem test_m1_cld_high :
    returned (m1 { m1Reset with chrRam := [(0, 0xFF)] }) 0x2200000 = some (some 0) ∧
    returned (m1 { m1Reset with chrRam := [(0, 0xFF)] }) 0x2400000 = some (some 0) ∧
    returned (m1 { m1Reset with chrRam := [(0x1FFF, 0xFF)] }) 0x2FFFF00 = some (some 0) := by decide

theorem test_m1_cst :
    chipAfter (m1 m1Reset) 0x3012345 = some (.m1 { m1Reset with chrRam := [(0x0123, 0x45)] }) := by decide

theorem test_m1_cst_high :
    chipAfter (m1 m1Reset) 0x3200077 = some (.m1 m1Reset) ∧ chipAfter (m1 m1Reset) 0x3400077 = some (.m1 m1Reset) ∧
    chipAfter (m1 m1Reset) 0x3FFFF77 = some (.m1 m1Reset) := by decide

/-! ### M4 (95 section 3.4, 96 P4) -/

theorem test_m4_pld_low :
    returned (m4 m4Reset) 0x03FFF00 = some (some 0) ∧ returned (m4 m4Reset) 0x05FFF00 = some (some 0) := by decide

theorem test_m4_pld_ram :
    returned (m4 { m4Reset with prgRam := [(0, 0x5A), (0x1FFF, 0x01)] }) 0x0600000 = some (some 0x5A) ∧
    returned (m4 { m4Reset with prgRam := [(0, 0x5A), (0x1FFF, 0x01)] }) 0x07FFF00 = some (some 0x01) := by decide

theorem test_m4_pld_w8 :
    returned (m4 { m4Reset with prgBank0 := 3, prgBank1 := 9 }) 0x09FFF00 = some (some 0x3F) ∧
    returned (m4 { m4Reset with bankSelect := 0x46, prgBank0 := 5 }) 0x0800300 = some (some 0xE3) := by decide

theorem test_m4_pld_wa :
    returned (m4 { m4Reset with prgBank0 := 3, prgBank1 := 9 }) 0x0A00000 = some (some 0x90) ∧
    returned (m4 { m4Reset with bankSelect := 0xFF, prgBank1 := 128 }) 0x0BFFF00 = some (some 0x0F) := by decide

theorem test_m4_pld_wc :
    returned (m4 { m4Reset with bankSelect := 0x46, prgBank0 := 0x21 }) 0x0C00000 = some (some 0x10) ∧
    returned (m4 { m4Reset with bankSelect := 0x86, prgBank0 := 3 }) 0x0DFFF00 = some (some 0xEF) := by decide

theorem test_m4_pld_we :
    returned (m4 { m4Reset with bankSelect := 0x47, prgBank0 := 5, prgBank1 := 255 }) 0x0FFFF00 = some (some 0xFF) ∧
    returned (live (testImage 4 49152 4096) (.m4 m4Reset)) 0x0E00000 = some (some 0x50) := by decide

theorem test_m4_pst_low :
    chipAfter (m4 m4Reset) 0x13FFF01 = some (.m4 m4Reset) ∧ chipAfter (m4 m4Reset) 0x15FFFFF = some (.m4 m4Reset) := by
  decide

theorem test_m4_pst_ram :
    chipAfter (m4 m4Reset) 0x16010C3 = some (.m4 { m4Reset with prgRam := [(0x0010, 0xC3)] }) ∧
    chipAfter (m4 { m4Reset with prgRam := [(0, 0x5A)] }) 0x1600000 = some (.m4 m4Reset) := by decide

theorem test_m4_pst_select :
    chipAfter (m4 m4Reset) 0x19FFE46 = some (.m4 { m4Reset with bankSelect := 0x46 }) := by decide

theorem test_m4_pst_data :
    chipAfter (m4 m4Reset) 0x1800133 = some (.m4 { m4Reset with chr2k0 := 0x33 }) ∧
    chipAfter (m4 { m4Reset with bankSelect := 0x47 }) 0x19FFFA7 =
      some (.m4 { m4Reset with bankSelect := 0x47, prgBank1 := 0xA7 }) := by decide

/-- 95 section 2, S6: select 1 to 6. -/
theorem test_m4_pst_data_slots :
    chipAfter (m4 { m4Reset with bankSelect := 1 }) 0x18001A1 = some (.m4 { m4Reset with bankSelect := 1, chr2k1 := 0xA1 }) ∧
    chipAfter (m4 { m4Reset with bankSelect := 2 }) 0x18001A2 = some (.m4 { m4Reset with bankSelect := 2, chr1k0 := 0xA2 }) ∧
    chipAfter (m4 { m4Reset with bankSelect := 3 }) 0x18001A3 = some (.m4 { m4Reset with bankSelect := 3, chr1k1 := 0xA3 }) ∧
    chipAfter (m4 { m4Reset with bankSelect := 4 }) 0x18001A4 = some (.m4 { m4Reset with bankSelect := 4, chr1k2 := 0xA4 }) ∧
    chipAfter (m4 { m4Reset with bankSelect := 5 }) 0x18001A5 = some (.m4 { m4Reset with bankSelect := 5, chr1k3 := 0xA5 }) ∧
    chipAfter (m4 { m4Reset with bankSelect := 6 }) 0x18001A6 =
      some (.m4 { m4Reset with bankSelect := 6, prgBank0 := 0xA6 }) := by decide

theorem test_m4_pst_high :
    chipAfter (m4 m4Reset) 0x1A001FF = some (.m4 m4Reset) ∧ chipAfter (m4 m4Reset) 0x1FFFF00 = some (.m4 m4Reset) := by
  decide

theorem test_m4_cld :
    returned (m4 { m4Reset with chr1k0 := 7 }) 0x2100000 = some (some 0x40) ∧
    returned (m4 m4Reset) 0x21FFF00 = some (some 0x7F) := by decide

theorem test_m4_cld_high :
    returned (m4 m4Reset) 0x2200000 = some (some 0) ∧ returned (m4 m4Reset) 0x2400000 = some (some 0) ∧
    returned (m4 m4Reset) 0x2FFFF00 = some (some 0) := by decide

theorem test_m4_cst :
    returned (m4 m4Reset) 0x30001AA = some none ∧ chipAfter (m4 m4Reset) 0x30001AA = some (.m4 m4Reset) := by decide

/-! ### CONSTRUCT (95 section 3.1, 96 P5) -/

theorem test_construct_builds :
    (next? (exec (.construct (testImage 0 32768 8192)) (m1 m1Reset))).bind (fun t => t.cart) =
      some ⟨testImage 0 32768 8192, .m0⟩ ∧
    (next? (exec (.construct (testImage 1 32768 8192)) State.reset)).bind (fun t => t.cart.map fun c => c.chip) =
      some (.m1 { ctrl := 0x0C, chrBank0 := 0, chrBank1 := 0, prgBank := 0, accum := 0, writeCount := 0,
                  prgRam := [], chrRam := [] }) ∧
    (next? (exec (.construct (testImage 4 16384 0)) State.reset)).bind (fun t => t.cart.map fun c => c.chip) =
      some (.m4 { bankSelect := 0, chr2k0 := 0, chr2k1 := 0, chr1k0 := 0, chr1k1 := 0, chr1k2 := 0, chr1k3 := 0,
                  prgBank0 := 0, prgBank1 := 0, prgRam := [] }) := by decide

theorem test_construct_fails :
    [2, 3, 5, 99, 255, 256].all (fun id =>
      (next? (exec (.construct (testImage id 32768 8192)) (m1 m1Reset))).map (fun t => (t.cart, t.constructErr)) ==
        some (none, some (.unsupportedMapper id))) = true ∧
    refusal? (exec (.construct { testImage 0 16384 0 with prgLen := 0, prg := [] }) State.reset) = some .malformedImage ∧
    refusal? (exec (.construct { testImage 1 16384 0 with prgLen := 20000 }) State.reset) = some .malformedImage := by
  decide

/-- 96 P5: after a failed construction a load has no step, and a following construction succeeds. -/
theorem test_stuck_without_chip :
    fault? (step { State.reset with
      constructErr := some (.unsupportedMapper 99), pending := [.word 0x0800000] }) = some .noLiveChip ∧
    (next? (step { State.reset with
      constructErr := some (.unsupportedMapper 99), pending := [.construct (testImage 0 32768 8192)] })).map
        (fun t => (t.cart, t.constructErr)) = some (some ⟨testImage 0 32768 8192, .m0⟩, none) := by decide

/-- R8: nothing presented, no step. -/
theorem test_nothing_presented : refusal? (step State.reset) = some .noTransaction := by decide

/-- R111, R161: the side-band shows `ctrl[1:0]` of M1 only. -/
theorem test_mirroring :
    portMirroring (m1 { m1Reset with ctrl := 0x1E }) = some 2 ∧ portMirroring (m4 m4Reset) = none := by decide

/-- R95, R61: out-of-range select values and modes are where the two decodes would raise. -/
theorem test_decode_domains : slotOf 8 = none ∧ prgModeOf 4 = none := by decide

/-! ### Witnesses: the hypotheses of each statement can be met -/

theorem witness_DecodeOfEncodeIsTheInstruction :
    ((Instr.m1PstShiftPrg 0xFFFF 0x7F).wf = true ∧
      ((Instr.m1PstShiftPrg 0xFFFF 0x7F).variant = none ∨ some .m1 = (Instr.m1PstShiftPrg 0xFFFF 0x7F).variant)) ∧
    ((Instr.construct (testImage 99 16384 1)).wf = true ∧
      ((Instr.construct (testImage 99 16384 1)).variant = none ∨
        (none : Option Variant) = (Instr.construct (testImage 99 16384 1)).variant)) := by decide

theorem witness_StepRunsTheDecodedInstruction :
    ((present (m4 m4Reset) 0x1800146).pending = [.word 0x1800146] ∧
      decode (liveVariant (present (m4 m4Reset) 0x1800146)) (.word 0x1800146) = .ok (.m4PstData 0x8001 0x46)) ∧
    decode (liveVariant State.reset) (.construct (testImage 1 16384 0)) = .ok (.construct (testImage 1 16384 0)) := by
  decide

theorem witness_NoLiveChipNoTransaction :
    ((present State.reset 0x0800000).pending = [.word 0x0800000] ∧ (present State.reset 0x0800000).cart = none) ∧
    ((present { m1 m1Reset with fault := some (.unreachableState .m1PrgMode 4) } 0x0800000).cart =
        some ⟨testImage 1 131072 8192, .m1 m1Reset⟩ ∧
      (present { m1 m1Reset with fault := some (.unreachableState .m1PrgMode 4) } 0x0800000).fault =
        some (.unreachableState .m1PrgMode 4)) := by decide

/-- A live chip of each variant over an accepted image, with the first and the last word presented. -/
theorem witness_EveryTransactionHasAStep :
    [m0 16384 0, m1 m1Reset, m4 m4Reset].all (fun s => [(0x0000000 : TxWord), 0x3FFFFFF].all fun tw =>
      (present s tw).fault.isNone && (present s tw).cart.isSome &&
      (present s tw).cart.all (fun c => c.image.lengthOk) && (present s tw).pending == [.word tw]) = true := by decide

theorem witness_NoTransactionReachesUnreachableState :
    ∃ t, (present (m4 m4Reset) 0x1800133).pending = [.word 0x1800133] ∧ step (present (m4 m4Reset) 0x1800133) = .next t :=
  ⟨_, rfl, rfl⟩

theorem witness_FetchedTableWordRunsNext :
    State.reset.inv = true ∧ (m4 m4Reset).inv = true ∧ (m1 m1Reset).inv = true ∧ 0x3FFFFFF < 2 ^ 26 := by decide

theorem witness_StepKeepsTheInvariant :
    ∃ t, (present (m1 { m1Reset with accum := 0x0F, writeCount := 4 }) 0x1FFFF7F).inv = true ∧
      step (present (m1 { m1Reset with accum := 0x0F, writeCount := 4 }) 0x1FFFF7F) = .next t :=
  ⟨_, by decide, rfl⟩

/-- A reset write, the fifth and the first qualifying write, and three words that are no PRG store at or above $8000. -/
theorem witness_SerialSequenceNeverGoesBack :
    ([({ m1Reset with accum := 7, writeCount := 3 }, 0x1FFFF80, true, true),
     ({ m1Reset with accum := 0x0F, writeCount := 4 }, 0x1E00000, true, true), (m1Reset, 0x1800001, true, false),
     ({ m1Reset with accum := 1, writeCount := 1 }, 0x17FFF80, false, false),
     ({ m1Reset with accum := 1, writeCount := 1 }, 0x3012345, false, false),
     ({ m1Reset with accum := 1, writeCount := 1 }, 0x0800000, false, false)] :
        List (M1Regs × TxWord × Bool × Bool)).all (fun c =>
      decide ((m1 c.1).liveM1 (testImage 1 131072 8192) c.1) && c.1.inv &&
      (chipAfter (m1 c.1) c.2.1).any (fun ch => match ch with | .m1 _ => true | _ => false) &&
      decide (c.2.2.1 = true ↔ dirOf c.2.1 = .store ∧ spaceOf c.2.1 = .prg ∧ 0x8000 ≤ (addrOf c.2.1).toNat) &&
      decide (c.2.2.2 = true ↔ c.2.2.1 = true ∧ (0x80 ≤ (valOf c.2.1).toNat ∨ c.1.writeCount = 4))) = true := by decide

/-- One image for each of the three mapper ids. -/
theorem witness_ConstructBuildsTheChipAtReset :
    [0, 1, 4].all (fun id => (testImage id 16384 0).canonical && (testImage id 16384 0).lengthOk &&
      (testImage id 16384 0).mapperId == id) = true := by decide

theorem witness_UnsupportedMapperLeavesNoChip :
    [2, 3, 5, 256].all (fun id => (testImage id 16384 0).canonical && (testImage id 16384 0).lengthOk &&
      (testImage id 16384 0).mapperId != 0 && (testImage id 16384 0).mapperId != 1 &&
      (testImage id 16384 0).mapperId != 4) = true := by decide

/-- Both sides, and each of the three ways an image is malformed. -/
theorem witness_MalformedImageIsRefused :
    (testImage 0 16384 0).canonical = true ∧ (testImage 0 16384 0).lengthOk = true ∧
    (testImage 0 0 0).canonical = true ∧ (testImage 0 0 0).prgLen = 0 ∧
    (testImage 1 20000 0).canonical = true ∧ (testImage 1 20000 0).prgLen % 16384 ≠ 0 ∧
    { testImage 4 32768 0 with headerBanks := some 1 }.canonical = true ∧
    (1 : Nat) ≠ { testImage 4 32768 0 with headerBanks := some 1 }.prgLen / 16384 := by decide

theorem witness_ReconstructionCarriesNothingOver :
    (m1 m1Reset).config = { State.reset with constructErr := some (.unsupportedMapper 99) }.config ∧
    (m1 m1Reset).pending = { State.reset with constructErr := some (.unsupportedMapper 99) }.pending ∧
    m1 m1Reset ≠ { State.reset with constructErr := some (.unsupportedMapper 99) } := by decide

theorem witness_RaisedUnreachableStateIsSticky : (m4 m4Reset).cart = some ⟨testImage 4 131072 8192, .m4 m4Reset⟩ := rfl

theorem witness_M1LoadsAfterConstruction :
    ∃ t, (testImage 1 16384 0).canonical = true ∧ (testImage 1 16384 0).lengthOk = true ∧
      (testImage 1 16384 0).mapperId = 1 ∧ exec (.construct (testImage 1 16384 0)) State.reset = .next t ∧
      (0x1FFF : Addr).toNat < 0x2000 :=
  ⟨_, by decide, by decide, rfl, rfl, by decide⟩

theorem witness_M4LoadsAfterConstruction :
    ∃ t, (testImage 4 16384 0).canonical = true ∧ (testImage 4 16384 0).lengthOk = true ∧
      (testImage 4 16384 0).mapperId = 4 ∧ State.reset.config.m4ModePolarity = .zeroIs8000 ∧
      exec (.construct (testImage 4 16384 0)) State.reset = .next t :=
  ⟨_, by decide, by decide, rfl, rfl, rfl⟩

/-- For M0LoadBelow8000ReadsZero and M0StoresDoNothing. -/
theorem witness_M0_live : (m0 16384 8192).liveM0 (testImage 0 16384 8192) := by decide

/-- Both masks of R122. -/
theorem witness_M0LoadFoldsTheAddress :
    ((m0 16384 0).liveM0 (testImage 0 16384 0) ∧ (testImage 0 16384 0).lengthOk = true) ∧
    ((m0 32768 0).liveM0 (testImage 0 32768 0) ∧ (testImage 0 32768 0).lengthOk = true) := by decide

/-- Each clause, with an offset inside and one beyond `CHR_LEN`. -/
theorem witness_ChrRomIsReadByRawAddress :
    (m0 16384 4096).liveM0 (testImage 0 16384 4096) ∧ (m4 m4Reset).liveM4 (testImage 4 131072 8192) m4Reset ∧
    (0x0FFF : Addr).toNat < (testImage 0 16384 4096).chrLen ∧ ¬ (0x1000 : Addr).toNat < (testImage 0 16384 4096).chrLen := by
  decide

theorem witness_ChrLoadAbove2000ReadsZero :
    (m0 16384 0).liveM0 (testImage 0 16384 0) ∧ (m1 m1Reset).liveM1 (testImage 1 131072 8192) m1Reset ∧
    (m4 m4Reset).liveM4 (testImage 4 131072 8192) m4Reset := by decide

theorem witness_M0SmallImageIsMirrored :
    (m0 16384 0).liveM0 (testImage 0 16384 0) ∧ (testImage 0 16384 0).prgLen = 16384 ∧ 0x3FFF < 0x4000 := by decide

theorem witness_M0TransactionsAreStateIndependent :
    ∃ t t', (present (m0 16384 0) 0x0FFFF00).liveM0 (testImage 0 16384 0) ∧
      ({ present (m0 16384 0) 0x0FFFF00 with out := some 1 }).liveM0 (testImage 0 16384 0) ∧
      (present (m0 16384 0) 0x0FFFF00).pending = [.word 0x0FFFF00] ∧
      step (present (m0 16384 0) 0x0FFFF00) = .next t ∧
      step { present (m0 16384 0) 0x0FFFF00 with out := some 1 } = .next t' :=
  ⟨_, _, by decide, by decide, rfl, rfl, rfl⟩

/-- For M1BelowROMIsUnmapped and M1ResetWriteForcesFixLast, and the M1 clause of MirroringFollowsCtrl. -/
theorem witness_M1_live : (m1 m1Reset).liveM1 (testImage 1 131072 8192) m1Reset := by decide

/-- The four values of `prg_mode`, with the banks 95 section 3.3 gives for `prg_bank` 11. -/
theorem witness_M1LowWindowShowsItsBank :
    [((0x00 : Byte), 10), (0x04, 10), (0x08, 0), (0x0C, 11)].all (fun c =>
      decide ((m1 { m1Reset with ctrl := c.1, prgBank := 11 }).liveM1 (testImage 1 131072 8192)
        { m1Reset with ctrl := c.1, prgBank := 11 }) && (testImage 1 131072 8192).lengthOk &&
      decide (c.2 = if c.1.toNat / 4 % 4 < 2 then (11 : Byte).toNat / 2 * 2
                    else if c.1.toNat / 4 % 4 = 2 then 0 else (11 : Byte).toNat)) = true := by decide

theorem witness_M1HighWindowShowsItsBank :
    [((0x00 : Byte), 11), (0x04, 11), (0x08, 11), (0x0C, 7)].all (fun c =>
      decide ((m1 { m1Reset with ctrl := c.1, prgBank := 11 }).liveM1 (testImage 1 131072 8192)
        { m1Reset with ctrl := c.1, prgBank := 11 }) && (testImage 1 131072 8192).lengthOk &&
      decide (c.2 = if c.1.toNat / 4 % 4 < 2 then (11 : Byte).toNat / 2 * 2 + 1
                    else if c.1.toNat / 4 % 4 = 2 then (11 : Byte).toNat
                    else (testImage 1 131072 8192).prgLen / 16384 - 1)) = true := by decide

/-- The first, the fourth and the fifth qualifying write. -/
theorem witness_M1QualifyingWriteShiftsOrCommits :
    [((0 : BitVec 3), (0x00 : Byte), (0x01 : Byte)), (3, 0x03, 0x0B), (4, 0x0B, 0x1B)].all (fun c =>
      decide ((m1 { m1Reset with writeCount := c.1, accum := c.2.1 }).liveM1 (testImage 1 131072 8192)
        { m1Reset with writeCount := c.1, accum := c.2.1 }) && decide (c.1.toNat ≤ 4) &&
      decide (c.2.2 = c.2.1 ||| BitVec.ofNat 8 ((0x7F : Byte).toNat % 2 * 2 ^ c.1.toNat))) = true := by decide

/-- The fifth write at the ends of each of its four windows (95 section 3.3, bits of $15). -/
theorem witness_M1FiveWriteLaw :
    (m1 m1Reset).liveM1 (testImage 1 131072 8192) m1Reset ∧ m1Reset.writeCount = 0 ∧ m1Reset.accum = 0 ∧
    [(0x8000 : Addr), 0x9FFF, 0xA000, 0xBFFF, 0xC000, 0xDFFF, 0xE000, 0xFFFF].all (fun a => decide (0x8000 ≤ a.toNat)) = true ∧
    [(0x7F : Byte), 0x7E, 0x03, 0x00, 0x01].all (fun v => decide (v.toNat < 0x80)) = true ∧
    ((0x15 : Byte).toNat = (0x7F : Byte).toNat % 2 + (0x7E : Byte).toNat % 2 * 2 + (0x03 : Byte).toNat % 2 * 4 +
      (0x00 : Byte).toNat % 2 * 8 + (0x01 : Byte).toNat % 2 * 16) := by decide

/-- The words between the writes: a load, an ignored store below $8000, a CHR store with its load, and nothing. -/
def between : List (List TxWord) := [[0x0FFFF00], [0x17FFF80], [0x3012345, 0x2012300], []]

/-- Five writes with the words of `between` among them, the fifth in the last window, and one more load after them. -/
def betweenState : State :=
  { smallM1 with pending :=
      [pst 0xE000 0x7F, .word 0x0FFFF00, pst 0xA000 0x7E, .word 0x17FFF80, pst 0xC000 0x03, .word 0x3012345,
       .word 0x2012300, pst 0x8000 0x00, pst 0xFFFF 0x01, .word 0x0800000] }

theorem witness_M1FiveWriteLawAcrossOtherTransactions :
    betweenState.liveM1 (testImage 1 16384 0) m1Reset ∧ (testImage 1 16384 0).lengthOk = true ∧
    m1Reset.writeCount = 0 ∧ m1Reset.accum = 0 ∧
    [(0xE000 : Addr), 0xA000, 0xC000, 0x8000, 0xFFFF].all (fun a => decide (0x8000 ≤ a.toNat)) = true ∧
    [(0x7F : Byte), 0x7E, 0x03, 0x00, 0x01].all (fun v => decide (v.toNat < 0x80)) = true ∧
    between.flatten.all (fun tw =>
      decide (¬ (dirOf tw = .store ∧ spaceOf tw = .prg ∧ 0x8000 ≤ (addrOf tw).toNat))) = true ∧
    betweenState.pending =
      pst 0xE000 0x7F :: (between[0].map .word ++ pst 0xA000 0x7E :: (between[1].map .word ++ pst 0xC000 0x03 ::
        (between[2].map .word ++ pst 0x8000 0x00 :: (between[3].map .word ++ pst 0xFFFF 0x01 :: [.word 0x0800000])))) ∧
    (0x15 : Byte).toNat = (0x7F : Byte).toNat % 2 + (0x7E : Byte).toNat % 2 * 2 + (0x03 : Byte).toNat % 2 * 4 +
      (0x00 : Byte).toNat % 2 * 8 + (0x01 : Byte).toNat % 2 * 16 ∧
    [(0x0123, 0x45)] = between.flatten.foldl (fun m tw =>
      if dirOf tw = .store ∧ spaceOf tw = .chr ∧ (addrOf tw).toNat < 0x2000
      then Memory.write m (addrOf tw).toNat (valOf tw) else m) m1Reset.chrRam := by decide

/-- For M1ChrLoadReadsRam, M1ChrStoreSetsOneByte and M1ChrStoreAbove2000DoesNothing. -/
theorem witness_M1Chr :
    (m1 { m1Reset with chrRam := [(0, 0xFF)] }).liveM1 (testImage 1 131072 8192) { m1Reset with chrRam := [(0, 0xFF)] } ∧
    ramOk [(0, 0xFF)] = true ∧ (0x0000 : Addr).toNat < 0x2000 ∧ (0x1FFF : Addr).toNat < 0x2000 := by decide

theorem witness_M1ChrRamReadsBack :
    ∃ t, (m1 m1Reset).liveM1 (testImage 1 131072 8192) m1Reset ∧ ramOk m1Reset.chrRam = true ∧
      (0x1FFF : Addr).toNat < 0x2000 ∧ (0x0000 : Addr).toNat < 0x2000 ∧
      exec (.m1Cst 0x1FFF 0x80) (m1 m1Reset) = .next t :=
  ⟨_, by decide, by decide, by decide, by decide, rfl⟩

theorem witness_MirroringFollowsCtrl :
    (m1 m1Reset).cart = some ⟨testImage 1 131072 8192, .m1 m1Reset⟩ ∧ (m0 16384 0).cart = some ⟨testImage 0 16384 0, .m0⟩ ∧
    (m4 m4Reset).cart = some ⟨testImage 4 131072 8192, .m4 m4Reset⟩ := by decide

/-- For M4BelowRamIsUnmapped, M4RamLoadReadsRam, M4SelectReplacesBankSelect, M4StoreAboveA000IsIgnored and
M4ChrStoreDoesNothing. -/
theorem witness_M4_live : (m4 m4Reset).liveM4 (testImage 4 131072 8192) m4Reset := by decide

theorem witness_M4RamStoreSetsOneByte :
    (m4 { m4Reset with prgRam := [(0x1FFF, 1)] }).liveM4 (testImage 4 131072 8192) { m4Reset with prgRam := [(0x1FFF, 1)] } ∧
    ramOk [(0x1FFF, 1)] = true := by decide

/-- Both values of the mode bit and both polarities; banks of 95 section 3.4 for `prg_banks[0]` 17. -/
theorem witness_M4SwappableWindowsByMode :
    [((0x86 : Byte), Polarity.zeroIs8000, true, 17, 14), (0x40, .zeroIs8000, false, 14, 17),
     (0x86, .zeroIsC000, false, 14, 17), (0x40, .zeroIsC000, true, 17, 14)].all (fun c =>
      decide (({ m4 { m4Reset with bankSelect := c.1, prgBank0 := 17 } with config := ⟨c.2.1⟩ }).liveM4
        (testImage 4 131072 8192) { m4Reset with bankSelect := c.1, prgBank0 := 17 }) &&
      (testImage 4 131072 8192).lengthOk &&
      decide (c.2.2.1 = true ↔ (c.1.toNat / 64 % 2 = 0 ↔ c.2.1 = .zeroIs8000)) &&
      decide (c.2.2.2.1 = if c.2.2.1 then (17 : Byte).toNat else (testImage 4 131072 8192).prgLen / 8192 - 2) &&
      decide (c.2.2.2.2 = if c.2.2.1 then (testImage 4 131072 8192).prgLen / 8192 - 2 else (17 : Byte).toNat)) = true := by
  decide

/-- For M4WindowAShowsPrgBank1 and M4WindowEShowsTheLastBank, at the smallest image and the last byte. -/
theorem witness_M4Windows :
    (live (testImage 4 16384 0) (.m4 { m4Reset with prgBank1 := 255 })).liveM4 (testImage 4 16384 0)
      { m4Reset with prgBank1 := 255 } ∧ (testImage 4 16384 0).lengthOk = true ∧
    0x3FFF = ((255 : Byte).toNat * 8192 + (0xBFFF : Addr).toNat % 8192) % (testImage 4 16384 0).prgLen ∧
    0x3FFF = (testImage 4 16384 0).prgLen - 8192 + (0xFFFF : Addr).toNat % 8192 := by decide

/-- All eight selections. -/
theorem witness_M4DataWritesTheSelectedSlot :
    (List.range 8).all (fun sel =>
      decide ((m4 { m4Reset with bankSelect := BitVec.ofNat 8 (0xF8 + sel) }).liveM4 (testImage 4 131072 8192)
        { m4Reset with bankSelect := BitVec.ofNat 8 (0xF8 + sel) }) &&
      decide (sel = (BitVec.ofNat 8 (0xF8 + sel)).toNat % 8)) = true := by decide

/-- Both values of the mode bit. -/
theorem witness_M4FixedBankLaws :
    [(0x00 : Byte), 0x40].all (fun b =>
      decide ((m4 { m4Reset with bankSelect := b }).liveM4 (testImage 4 131072 8192) { m4Reset with bankSelect := b }) &&
      (testImage 4 131072 8192).lengthOk &&
      decide ((m4 { m4Reset with bankSelect := b }).config.m4ModePolarity = .zeroIs8000)) = true := by decide

theorem witness_M4ModeBitSwapsTwoWindows :
    (m4 m4Reset).liveM4 (testImage 4 131072 8192) m4Reset ∧ (testImage 4 131072 8192).lengthOk = true ∧ 0x1FFF < 0x2000 ∧
    m4 { m4Reset with bankSelect := 0x40 } =
      { m4 m4Reset with cart := some ⟨testImage 4 131072 8192, .m4 { m4Reset with bankSelect := m4Reset.bankSelect ^^^ 0x40 }⟩ } := by
  decide

theorem witness_LoadsHaveNoSideEffect :
    (present smallM4 0x0FFFF00).pending = [.word 0x0FFFF00] ∧ dirOf 0x0FFFF00 = .load ∧
    ∃ t, step (present smallM4 0x0FFFF00) = .next t :=
  ⟨rfl, by decide, exists_next (by decide)⟩

/-- A store on each variant, and on M1 one of each side. -/
theorem witness_StoresChangeOnlyWhatTheirSideMay :
    [(m0 16384 0, (0x1FFFF00 : TxWord)), (m1 m1Reset, 0x1800080), (m1 m1Reset, 0x3012345), (m4 m4Reset, 0x16010C3)].all
      (fun c => decide (dirOf c.2 = .store) && (present c.1 c.2).pending == [.word c.2] && c.1.cart.isSome &&
        ((after c.1 c.2).bind fun t => t.cart).isSome) = true := by decide

/-- Beside a stored byte, on each chip with RAM. -/
theorem witness_MemoryFrameOfEveryTransaction :
    (∃ t, (present (m1 m1Reset) 0x31FFF80).pending = [.word 0x31FFF80] ∧ step (present (m1 m1Reset) 0x31FFF80) = .next t ∧
      (0x1FFE : Nat) ≠ (addrOf 0x31FFF80).toNat ∧ liveVariant (present (m1 m1Reset) 0x31FFF80) ≠ some .m4) ∧
    (∃ t, (present (m4 m4Reset) 0x17FFF01).pending = [.word 0x17FFF01] ∧ step (present (m4 m4Reset) 0x17FFF01) = .next t ∧
      (0x1FFE : Nat) ≠ (addrOf 0x17FFF01).toNat % 8192 ∧ liveVariant (present (m4 m4Reset) 0x17FFF01) ≠ some .m1) :=
  ⟨⟨_, rfl, rfl, by decide, by decide⟩, ⟨_, rfl, rfl, by decide, by decide⟩⟩

/-- A select write, a data write and a RAM store, at the ends of the window. -/
theorem witness_M4SlotIsolation :
    (m4 m4Reset).liveM4 (testImage 4 131072 8192) m4Reset ∧
    [((0x19FFE46 : TxWord), true, false), (0x1800133, false, true), (0x17FFF01, false, false)].all (fun c =>
      (chipAfter (m4 m4Reset) c.1).any (fun ch => match ch with | .m4 _ => true | _ => false) &&
      decide (c.2.1 = true ↔ dirOf c.1 = .store ∧ spaceOf c.1 = .prg ∧ (addrOf c.1).toNat / 8192 = 4 ∧
        (addrOf c.1).toNat % 2 = 0) &&
      decide (c.2.2 = true ↔ dirOf c.1 = .store ∧ spaceOf c.1 = .prg ∧ (addrOf c.1).toNat / 8192 = 4 ∧
        (addrOf c.1).toNat % 2 = 1)) = true := by decide

theorem witness_UnreadStateAffectsNoLoad :
    dirOf 0x0FFFF00 = .load ∧ (present smallM1 0x0FFFF00).liveM1 (testImage 1 16384 0) m1Reset ∧
    (present smallM4 0x0FFFF00).liveM4 (testImage 4 16384 0) m4Reset ∧
    (∃ t, step (present smallM1 0x0FFFF00) = .next t) ∧ ∃ t, step (present smallM4 0x0FFFF00) = .next t :=
  ⟨by decide, by decide, by decide, exists_next (by decide), exists_next (by decide)⟩

theorem witness_CpuAndPpuSidesCommute :
    ∃ t1 t2 u1 u2, spaceOf 0x1800001 = .prg ∧ spaceOf 0x3012345 = .chr ∧
      step { m1 m1Reset with pending := [.word 0x1800001, .word 0x3012345] } = .next t1 ∧ step t1 = .next t2 ∧
      step { m1 m1Reset with pending := [.word 0x3012345, .word 0x1800001] } = .next u1 ∧ step u1 = .next u2 :=
  ⟨_, _, _, _, by decide, by decide, rfl, rfl, rfl, rfl⟩

theorem witness_IgnoredBitsChangeNothing :
    (0x01 : Byte).toNat % 2 = (0x7F : Byte).toNat % 2 ∧ (0x8003 : Addr).toNat % 16384 = (0xC003 : Addr).toNat % 16384 := by
  decide

/-- On M4, and a CHR store on M1. -/
theorem witness_RepeatedStoreIsIdempotent :
    (∃ t u, ({ m4 m4Reset with pending := [.word 0x1800133, .word 0x1800133] }).inv = true ∧
      liveVariant { m4 m4Reset with pending := [.word 0x1800133, .word 0x1800133] } = some .m4 ∧
      step { m4 m4Reset with pending := [.word 0x1800133, .word 0x1800133] } = .next t ∧ step t = .next u) ∧
    (∃ t u, ({ m1 m1Reset with pending := [.word 0x3012345, .word 0x3012345] }).inv = true ∧
      liveVariant { m1 m1Reset with pending := [.word 0x3012345, .word 0x3012345] } = some .m1 ∧
      spaceOf 0x3012345 = .chr ∧
      step { m1 m1Reset with pending := [.word 0x3012345, .word 0x3012345] } = .next t ∧ step t = .next u) :=
  ⟨⟨_, _, by decide, by decide, rfl, rfl⟩, ⟨_, _, by decide, by decide, by decide, rfl, rfl⟩⟩

/-- A RAM store and a ROM load. -/
theorem witness_PortsShowTheTransaction :
    (present smallM4 0x16010C3).pending = [.word 0x16010C3] ∧ dirOf 0x16010C3 = .store ∧
    (∃ t, step (present smallM4 0x16010C3) = .next t) ∧
    (present smallM4 0x0FFFF00).pending = [.word 0x0FFFF00] ∧ dirOf 0x0FFFF00 = .load ∧
    (∃ t, step (present smallM4 0x0FFFF00) = .next t) ∧
    (after smallM4 0x0FFFF00).map portTgtKind = some (some 1) :=
  ⟨rfl, by decide, exists_next (by decide), rfl, by decide, exists_next (by decide), by decide⟩

/-- A word of each clause, at the ends of its windows. -/
theorem witness_TargetsFollowTheWindowMap :
    (m0 16384 0).liveM0 (testImage 0 16384 0) ∧ smallM1.liveM1 (testImage 1 16384 0) m1Reset ∧
    smallM4.liveM4 (testImage 4 16384 0) m4Reset ∧
    [(m0 16384 0, (0x07FFF00 : TxWord), Target.zero), (m0 16384 0, 0x0FFFF00, .rom .prgRom 0x3FFF),
     (m0 16384 0, 0x21FFF00, .rom .chrRom 0x1FFF), (m0 16384 0, 0x3000099, .ignore),
     (smallM1, 0x21FFF00, .ram .chrRam 0x1FFF), (smallM1, 0x2200000, .zero), (smallM1, 0x19FFF00, .reg (.serial .ctrl)),
     (smallM1, 0x1A00000, .reg (.serial .chrBank0)), (smallM1, 0x1FFFF80, .reg (.serial .prgBank)),
     (smallM1, 0x0FFFF00, .rom .prgRom 0x3FFF),
     (smallM4, 0x15FFFFF, .ignore), (smallM4, 0x17FFF01, .ram .prgRam 0x1FFF), (smallM4, 0x19FFE46, .reg .bankSelect),
     (smallM4, 0x1800133, .reg (.slot .chr2k0)), (smallM4, 0x1A00001, .ignore), (smallM4, 0x05FFF00, .zero),
     (smallM4, 0x0600000, .ram .prgRam 0), (smallM4, 0x0E00000, .rom .prgRom 0x2000)].all (fun c =>
      (after c.1 c.2.1).map (fun t => t.target) == some (some c.2.2)) = true := by decide

end Sys2Proof.Tests
end

section
/-! PROOFS. FixedMapping, mapper 0 (41_fixed_mapping.md): what each PRG transaction and each store runs on a live M0
chip, that the folded address lies inside the image, and O20, O21 and O22. -/

namespace Sys2Proof.Machine

/-! ### The classes on a live M0 chip -/

theorem exec_m0PldLow_of_live {s : State} {img : RomImage} (h : s.liveM0 img) (addr : Addr) :
    exec (.m0PldLow addr) s = loadZero s := onM0_live h _

theorem exec_m0PldRom_of_live {s : State} {img : RomImage} (h : s.liveM0 img) (addr : Addr) :
    exec (.m0PldRom addr) s = loadRom .prgRom (m0PrgOffset addr img.prgLen) ⟨img, .m0⟩ s := onM0_live h _

theorem exec_m0Pst_of_live {s : State} {img : RomImage} (h : s.liveM0 img) (addr : Addr) (val : Byte) :
    exec (.m0Pst addr val) s = storeIgnored s := onM0_live h _

theorem exec_m0Cst_of_live {s : State} {img : RomImage} (h : s.liveM0 img) (addr : Addr) (val : Byte) :
    exec (.m0Cst addr val) s = storeIgnored s := onM0_live h _

/-! ### The folded address (R122) -/

/-- An accepted image is a whole number of 16 KB banks, so one above 16 KB fills the 32 KB window. -/
theorem m0PrgOffset_lt_prgLen {img : RomImage} (h : img.lengthOk = true) (addr : Addr) :
    m0PrgOffset addr img.prgLen < img.prgLen := by
  obtain ⟨hpos, hbanks, -⟩ := (lengthOk_iff img).1 h
  rw [m0PrgOffset_eq]
  split <;> omega

/-! ### The obligations -/

/-- Settles O20: the class runs the load of the out-of-window default. -/
theorem m0LoadBelow8000ReadsZero : Obligations.M0LoadBelow8000ReadsZero :=
  fun _ _ addr hlive => ⟨_, exec_m0PldLow_of_live hlive addr⟩

/-- Settles O21: the class loads PRG-ROM at the folded address, which lies inside the image. -/
theorem m0LoadFoldsTheAddress : Obligations.M0LoadFoldsTheAddress := by
  intro s img addr hlive hlen
  have hlt := m0PrgOffset_lt_prgLen hlen addr
  have hload := (exec_m0PldRom_of_live hlive addr).trans (loadRom_of_read (memRead_prgRom ⟨img, .m0⟩ hlt))
  exact ⟨_, _, m0PrgOffset_eq addr img.prgLen, hlt, hload⟩

/-- Settles O22: both store classes run the ignored store. -/
theorem m0StoresDoNothing : Obligations.M0StoresDoNothing := by
  intro s img addr val hlive i hi
  simp only [List.mem_cons, List.not_mem_nil, or_false] at hi
  obtain rfl | rfl := hi
  · exact ⟨_, exec_m0Pst_of_live hlive addr val⟩
  · exact ⟨_, exec_m0Cst_of_live hlive addr val⟩

end Sys2Proof.Machine
end

section
/-! PROOFS. ShiftRegisterBanking, mapper 1 (42_shift_register_banking.md): what the classes of these statements run on a
live M1 chip, the arithmetic of a qualifying and of a reset write, and O27, O30, O31, O34 and O35. -/

namespace Sys2Proof.Machine

/-! ### The classes on a live M1 chip -/

section Classes

variable {s : State} {img : RomImage} {r : M1Regs}

theorem exec_m1PldLow_of_live (h : s.liveM1 img r) (addr : Addr) : exec (.m1PldLow addr) s = loadZero s :=
  onM1_live h _

theorem exec_m1PstLow_of_live (h : s.liveM1 img r) (addr : Addr) (val : Byte) :
    exec (.m1PstLow addr val) s = storeIgnored s := onM1_live h _

theorem exec_m1PstReset_of_live (h : s.liveM1 img r) (addr : Addr) (val : Byte) :
    exec (.m1PstReset addr val) s =
      storeDone (.reg (.serial (serialDest addr))) ⟨img, .m1 (serialReset r)⟩ s := onM1_live h _

theorem exec_m1Cld_of_live (h : s.liveM1 img r) (addr : Addr) :
    exec (.m1Cld addr) s = loadRam .chrRam addr.toNat ⟨img, .m1 r⟩ s := onM1_live h _

theorem exec_m1Cst_of_live (h : s.liveM1 img r) (addr : Addr) (val : Byte) :
    exec (.m1Cst addr val) s = storeRam .chrRam addr.toNat val ⟨img, .m1 r⟩ s := onM1_live h _

end Classes

/-! ### A qualifying write (R148, R149) -/

theorem shiftAccum_eq (accum val : Byte) (count : BitVec 3) :
    shiftAccum accum val count = accum ||| BitVec.ofNat 8 (val.toNat % 2 * 2 ^ count.toNat) := by
  have hshift : BitVec.ofNat 8 (val.toNat % 2) <<< count.toNat = BitVec.ofNat 8 (val.toNat % 2 * 2 ^ count.toNat) :=
    BitVec.eq_of_toNat_eq (by simp [Nat.shiftLeft_eq])
  rw [shiftAccum, val_and_one, hshift]

theorem shiftCount_eq_five_iff (count : BitVec 3) : shiftCount count = 5 ↔ count = 4 := by
  rw [shiftCount, ← BitVec.toNat_inj]
  exact Nat.succ_inj

/-- The fifth write is the one that finds `write_count` 4; any other counts one. -/
theorem serialShift_eq (r : M1Regs) (d : SerialDest) (val : Byte) :
    serialShift r d val =
      if r.writeCount = 4 then
        { writeDest r d (shiftAccum r.accum val r.writeCount) with writeCount := 0, accum := 0 }
      else { r with accum := shiftAccum r.accum val r.writeCount, writeCount := r.writeCount + 1 } := by
  have hnext : BitVec.ofNat 3 (shiftCount r.writeCount) = r.writeCount + 1 := by simp [shiftCount, BitVec.ofNat_add]
  simp only [serialShift, shiftCount_eq_five_iff, hnext]

/-! ### A reset write (R147) -/

theorem ctrlPrgMode_or (a b : Byte) : ctrlPrgMode (a ||| b) = ctrlPrgMode a ||| ctrlPrgMode b :=
  BitVec.extractLsb'_or

theorem ctrlMirroring_or (a b : Byte) : ctrlMirroring (a ||| b) = (ctrlMirroring a ||| ctrlMirroring b) :=
  BitVec.extractLsb'_or

theorem ctrlChrMode_or (a b : Byte) : ctrlChrMode (a ||| b) = (ctrlChrMode a || ctrlChrMode b) :=
  BitVec.getLsbD_or

/-- The mask 0x0C fills the PRG-mode field: the result is fix-last whatever the mode was. -/
theorem ctrlPrgMode_or_fixLast (ctrl : Byte) : ctrlPrgMode (ctrl ||| 0x0C) = 3 :=
  (ctrlPrgMode_or ctrl 0x0C).trans BitVec.or_allOnes

/-- The mask 0x0C misses the mirroring field. -/
theorem ctrlMirroring_or_fixLast (ctrl : Byte) : ctrlMirroring (ctrl ||| 0x0C) = ctrlMirroring ctrl :=
  (ctrlMirroring_or ctrl 0x0C).trans BitVec.or_zero

/-- The mask 0x0C misses the CHR-mode bit. -/
theorem ctrlChrMode_or_fixLast (ctrl : Byte) : ctrlChrMode (ctrl ||| 0x0C) = ctrlChrMode ctrl :=
  (ctrlChrMode_or ctrl 0x0C).trans (Bool.or_false _)

/-! ### The obligations -/

/-- Settles O31: the four classes are one shift, each with the destination of its window. The bound on the count is not
used: `serialShift` is total, and a count above 4 only counts on, modulo 8. -/
theorem m1QualifyingWriteShiftsOrCommits : Obligations.M1QualifyingWriteShiftsOrCommits := by
  intro s img r addr val v hlive _ hv pair hpair
  have hshift (d : SerialDest) := m1Shift_live hlive d val
  simp only [serialShift_eq, shiftAccum_eq, ← hv] at hshift
  simp only [List.mem_cons, List.not_mem_nil, or_false] at hpair
  obtain rfl | rfl | rfl | rfl := hpair
  · exact ⟨_, hshift .ctrl⟩
  · exact ⟨_, hshift .chrBank0⟩
  · exact ⟨_, hshift .chrBank1⟩
  · exact ⟨_, hshift .prgBank⟩

/-- Settles O35: the class writes CHR-RAM at the address, and a memory write changes the byte at its offset only. -/
theorem m1ChrStoreSetsOneByte : Obligations.M1ChrStoreSetsOneByte := by
  intro s img r addr val hlive hram haddr
  have hwf : Memory.wf r.chrRam = true := (Bool.and_eq_true_iff.1 hram).1
  have hstore := (exec_m1Cst_of_live hlive addr val).trans (storeRam_of_write (memWrite_chrRam_m1 img r val haddr))
  exact ⟨_, _, hstore, Memory.read_write_same _ val hwf, fun k hk => Memory.read_write_other _ val hk⟩

/-- Settles O27: the load is that of the out-of-window default, the store the ignored one. -/
theorem m1BelowROMIsUnmapped : Obligations.M1BelowROMIsUnmapped :=
  fun _ _ _ addr val hlive => ⟨⟨_, exec_m1PldLow_of_live hlive addr⟩, _, exec_m1PstLow_of_live hlive addr val⟩

/-- Settles O30: the class installs `serialReset`, and the mask 0x0C covers the PRG-mode field and no other. -/
theorem m1ResetWriteForcesFixLast : Obligations.M1ResetWriteForcesFixLast :=
  fun _ _ r addr val hlive =>
    ⟨⟨_, exec_m1PstReset_of_live hlive addr val⟩,
      ctrlPrgMode_or_fixLast r.ctrl, ctrlMirroring_or_fixLast r.ctrl, ctrlChrMode_or_fixLast r.ctrl⟩

/-- Settles O34: the class loads CHR-RAM at the address, which lies inside its 8 KB. -/
theorem m1ChrLoadReadsRam : Obligations.M1ChrLoadReadsRam :=
  fun _ img r addr hlive haddr =>
    ⟨_, (exec_m1Cld_of_live hlive addr).trans (loadRam_of_read (memRead_chrRam_m1 img r haddr))⟩

end Sys2Proof.Machine
end

section
/-! PROOFS. IndexedBanking, mapper 4 (43_indexed_banking.md): what the classes of these statements run on a live M4 chip,
which slot a bank data write reaches, and O39, O40, O41, O45, O46, O47 and O48. -/

namespace Sys2Proof.Machine

/-! ### The classes on a live M4 chip -/

section Classes

variable {s : State} {img : RomImage} {r : M4Regs}

theorem exec_m4PldLowA_of_live (h : s.liveM4 img r) (addr : Addr) : exec (.m4PldLowA addr) s = loadZero s :=
  onM4_live h _

theorem exec_m4PldLowB_of_live (h : s.liveM4 img r) (addr : Addr) : exec (.m4PldLowB addr) s = loadZero s :=
  onM4_live h _

theorem exec_m4PldRam_of_live (h : s.liveM4 img r) (addr : Addr) :
    exec (.m4PldRam addr) s = loadRam .prgRam (low13 addr) ⟨img, .m4 r⟩ s := onM4_live h _

theorem exec_m4PstLowA_of_live (h : s.liveM4 img r) (addr : Addr) (val : Byte) :
    exec (.m4PstLowA addr val) s = storeIgnored s := onM4_live h _

theorem exec_m4PstLowB_of_live (h : s.liveM4 img r) (addr : Addr) (val : Byte) :
    exec (.m4PstLowB addr val) s = storeIgnored s := onM4_live h _

theorem exec_m4PstRam_of_live (h : s.liveM4 img r) (addr : Addr) (val : Byte) :
    exec (.m4PstRam addr val) s = storeRam .prgRam (low13 addr) val ⟨img, .m4 r⟩ s := onM4_live h _

theorem exec_m4PstSelect_of_live (h : s.liveM4 img r) (addr : Addr) (val : Byte) :
    exec (.m4PstSelect addr val) s =
      storeDone (.reg .bankSelect) ⟨img, .m4 { r with bankSelect := val }⟩ s := onM4_live h _

/-- The slot decode never fails (R186), so a bank data write ends as a store to the slot it gives. -/
theorem exec_m4PstData_of_live (h : s.liveM4 img r) (addr : Addr) (val : Byte) :
    ∃ sl, slotOf (r.bankSelect.toNat % 8) = some sl ∧
      exec (.m4PstData addr val) s = storeDone (.reg (.slot sl)) ⟨img, .m4 (writeSlot r sl val)⟩ s := by
  obtain ⟨sl, hsl⟩ := slotOf_isSome r.bankSelect
  refine ⟨sl, updateSelect_toNat r.bankSelect ▸ hsl, (onM4_live h _).trans ?_⟩
  simp only [hsl]

theorem exec_m4PstHighA_of_live (h : s.liveM4 img r) (addr : Addr) (val : Byte) :
    exec (.m4PstHighA addr val) s = storeIgnored s := onM4_live h _

theorem exec_m4PstHighB_of_live (h : s.liveM4 img r) (addr : Addr) (val : Byte) :
    exec (.m4PstHighB addr val) s = storeIgnored s := onM4_live h _

theorem exec_m4Cst_of_live (h : s.liveM4 img r) (addr : Addr) (val : Byte) :
    exec (.m4Cst addr val) s = storeIgnored s := onM4_live h _

end Classes

/-! ### The slot of a bank data write (R36, R181) -/

/-- The register a write to the decoded slot replaces, by the number decoded. -/
theorem writeSlot_of_slotOf {sel : Nat} {sl : Slot} (h : slotOf sel = some sl) (r : M4Regs) (v : Byte) :
    writeSlot r sl v =
      if sel = 0 then { r with chr2k0 := v } else if sel = 1 then { r with chr2k1 := v }
      else if sel = 2 then { r with chr1k0 := v } else if sel = 3 then { r with chr1k1 := v }
      else if sel = 4 then { r with chr1k2 := v } else if sel = 5 then { r with chr1k3 := v }
      else if sel = 6 then { r with prgBank0 := v } else { r with prgBank1 := v } := by
  unfold slotOf at h
  split at h <;> cases h <;> rfl

/-! ### The obligations -/

/-- Settles O41: the class writes PRG-RAM at `addr & 0x1FFF`, and a memory write changes the byte at its offset only. -/
theorem m4RamStoreSetsOneByte : Obligations.M4RamStoreSetsOneByte := by
  intro s img r addr val hlive hram
  have hwf : Memory.wf r.prgRam = true := (Bool.and_eq_true_iff.1 hram).1
  have hstore := (exec_m4PstRam_of_live hlive addr val).trans
    (storeRam_of_write (memWrite_prgRam_m4 img r val (low13_lt addr)))
  rw [← low13_eq]
  exact ⟨_, _, hstore, Memory.read_write_same _ val hwf, fun k hk => Memory.read_write_other _ val hk⟩

/-- Settles O39: both load rows run the load of the out-of-window default, both store rows the ignored store. -/
theorem m4BelowRamIsUnmapped : Obligations.M4BelowRamIsUnmapped := by
  intro s img r addr val hlive
  constructor
  · exact List.forall_mem_cons.2
      ⟨⟨_, exec_m4PldLowA_of_live hlive addr⟩, List.forall_mem_singleton.2 ⟨_, exec_m4PldLowB_of_live hlive addr⟩⟩
  · exact List.forall_mem_cons.2
      ⟨⟨_, exec_m4PstLowA_of_live hlive addr val⟩, List.forall_mem_singleton.2 ⟨_, exec_m4PstLowB_of_live hlive addr val⟩⟩

/-- Settles O40: the class loads PRG-RAM at `addr & 0x1FFF`, which lies inside its 8 KB. -/
theorem m4RamLoadReadsRam : Obligations.M4RamLoadReadsRam := by
  intro s img r addr hlive
  rw [← low13_eq]
  exact ⟨_, (exec_m4PldRam_of_live hlive addr).trans (loadRam_of_read (memRead_prgRam_m4 img r (low13_lt addr)))⟩

/-- Settles O45: the class ends as a store to `bank_select`. -/
theorem m4SelectReplacesBankSelect : Obligations.M4SelectReplacesBankSelect :=
  fun _ _ _ addr val hlive => ⟨_, exec_m4PstSelect_of_live hlive addr val⟩

/-- Settles O46: the class writes the slot that `bank_select[2:0]` decodes to. -/
theorem m4DataWritesTheSelectedSlot : Obligations.M4DataWritesTheSelectedSlot := by
  rintro s img r addr val sel hlive rfl
  obtain ⟨sl, hsl, hexec⟩ := exec_m4PstData_of_live hlive addr val
  rw [writeSlot_of_slotOf hsl] at hexec
  exact ⟨_, hexec⟩

/-- Settles O47: both rows run the ignored store. -/
theorem m4StoreAboveA000IsIgnored : Obligations.M4StoreAboveA000IsIgnored :=
  fun _ _ _ addr val hlive => List.forall_mem_cons.2
    ⟨⟨_, exec_m4PstHighA_of_live hlive addr val⟩, List.forall_mem_singleton.2 ⟨_, exec_m4PstHighB_of_live hlive addr val⟩⟩

/-- Settles O48: the class runs the ignored store. -/
theorem m4ChrStoreDoesNothing : Obligations.M4ChrStoreDoesNothing :=
  fun _ _ _ addr val hlive => ⟨_, exec_m4Cst_of_live hlive addr val⟩

end Sys2Proof.Machine
end

section
/-! PROOFS. The Mapper Factory (70_reset_and_hazards.md section 1): the chip of each supported id, what CONSTRUCT runs on
an accepted image of such an id, and O13. -/

namespace Sys2Proof.Machine

/-! ### The chip of a supported id (R231 to R233) -/

theorem chipOf_zero : chipOf 0 = some .m0 := rfl

theorem chipOf_one : chipOf 1 = some (.m1 m1Reset) := rfl

theorem chipOf_four : chipOf 4 = some (.m4 m4Reset) := rfl

/-! ### CONSTRUCT on an accepted image (R230) -/

/-- Nothing of `s` but the configuration and what is presented next is left (R236). -/
theorem exec_construct_of_chipOf {img : RomImage} {chip : Chip} (hcanon : img.canonical = true)
    (hlen : img.lengthOk = true) (hchip : chipOf img.mapperId = some chip) (s : State) :
    exec (.construct img) s =
      .next { s with
        cart := some ⟨img, chip⟩, fault := none, constructErr := none, out := none, target := none, req := none } := by
  have haccept : (img.canonical && img.lengthOk) = true := Bool.and_eq_true_iff.2 ⟨hcanon, hlen⟩
  change execConstruct img s = _
  rw [execConstruct, if_pos haccept, hchip]

/-! ### The obligation -/

/-- Settles O13: CONSTRUCT installs the chip of the id, whose reset RAM lists no cell, so every byte of it reads 0x00. -/
theorem constructBuildsTheChipAtReset : Obligations.ConstructBuildsTheChipAtReset := by
  intro img s hcanon hlen
  have hbuild {chip : Chip} (hchip : chipOf img.mapperId = some chip) :=
    exec_construct_of_chipOf hcanon hlen hchip s
  refine ⟨fun hid => ?m0, fun hid => ?m1, fun hid => ?m4⟩
  case m0 => exact ⟨_, hbuild (hid ▸ chipOf_zero), rfl, rfl⟩
  case m1 =>
    exact ⟨_, m1Reset.prgRam, m1Reset.chrRam, hbuild (hid ▸ chipOf_one), rfl, Memory.read_nil, Memory.read_nil, rfl⟩
  case m4 => exact ⟨_, m4Reset.prgRam, hbuild (hid ▸ chipOf_four), rfl, Memory.read_nil, rfl⟩

end Sys2Proof.Machine
end

section
/-! PROOFS. The transaction word (30_encoding.md): how a word's fields classify it, the round trips of decoding and
encoding, the opcode table, and O1, O2, O3 and O4. -/

namespace Sys2Proof

open Laws.Fields (operands)

/-! ### Windows and operands of a classified word (R96) -/

theorem inWindow_iff {lo hi : Nat} {a : Addr} : inWindow lo hi a = true ↔ lo ≤ a.toNat ∧ a.toNat ≤ hi := by
  simp [inWindow]

theorem inWindow_of_le {lo hi : Nat} {a : Addr} (hlo : lo ≤ a.toNat) (hhi : a.toNat ≤ hi) : inWindow lo hi a = true :=
  inWindow_iff.2 ⟨hlo, hhi⟩

/-- The canonical data field: a load's is 0 (R91, decision D20). -/
def Dir.data : Dir → Byte → Byte
  | .load, _ => 0
  | .store, val => val

/-- An instruction with a word is encoded as the packing of its operands. -/
theorem encode_of_operands {i : Instr} {sp : Space} {rw : Dir} {a : Addr} {val : Byte}
    (h : operands i = some (sp, rw, a, val)) : encode i = .word (packTx sp rw a val) := by
  cases i <;> cases h <;> rfl

/-- A transaction class has a word, a construction has none (R92). -/
theorem operands_of_variant {i : Instr} {v : Variant} (h : i.variant = some v) :
    ∃ sp rw a val, operands i = some (sp, rw, a, val) := by
  cases i with
  | construct img => cases h
  | _ => exact ⟨_, _, _, _, rfl⟩

/-- Inside its window, and with the bit its row fixes, an instruction is the class of its own operands. -/
theorem classify_of_wf {i : Instr} {v : Variant} {sp : Space} {rw : Dir} {a : Addr} {val : Byte}
    (hwf : i.wf = true) (hv : i.variant = some v) (hops : operands i = some (sp, rw, a, val)) :
    classify v sp rw a val = i := by
  cases i with
  | construct img => cases hv
  | _ =>
    cases hv
    cases hops
    simp only [Instr.wf, Bool.and_eq_true, Bool.not_eq_true', inWindow_iff] at hwf
    simp (disch := omega) only [classify, classifyM0, classifyM1, classifyM4, chrPieces, if_pos, if_neg, hwf,
      Bool.false_eq_true, if_true, if_false]

theorem classify_wf (v : Variant) (sp : Space) (rw : Dir) (a : Addr) (val : Byte) :
    (classify v sp rw a val).wf = true := by
  have ha := a.isLt
  cases v <;> cases sp <;> cases rw <;> simp only [classify, classifyM0, classifyM1, classifyM4, chrPieces] <;>
    repeat' split
  all_goals simp (disch := omega) only [Instr.wf, inWindow_of_le, Bool.true_and, *, Bool.not_eq_true']

theorem classify_variant_operands (v : Variant) (sp : Space) (rw : Dir) (a : Addr) (val : Byte) :
    (classify v sp rw a val).variant = some v ∧
      operands (classify v sp rw a val) = some (sp, rw, a, rw.data val) := by
  cases v <;> cases sp <;> cases rw <;> simp only [classify, classifyM0, classifyM1, classifyM4, chrPieces] <;>
    repeat' split
  all_goals exact ⟨rfl, rfl⟩

/-- The class of a word's own fields: what the decoder reads from the word on a chip of the variant. -/
abbrev classOf (v : Variant) (tw : TxWord) : Instr := classify v (spaceOf tw) (dirOf tw) (addrOf tw) (valOf tw)

/-- The packing of a word's fields with the canonical data field. -/
theorem packTx_fields_data (tw : TxWord) :
    packTx (spaceOf tw) (dirOf tw) (addrOf tw) ((dirOf tw).data (valOf tw)) =
      if dirOf tw = .load then tw &&& 0x3FFFF00 else tw := by
  cases hd : dirOf tw with
  | load => rw [if_pos rfl, Dir.data, ← hd, packTx_fields_zero]
  | store => rw [if_neg (by decide), Dir.data, ← hd, packTx_fields]

/-! ### The opcode table (R97) -/

/-- The bits that some row of the opcode table looks at: space, direction, the top three address bits, the lowest address
bit and the highest data bit. -/
def decodeMask : TxWord := 0x3E00180

/-- The word whose bits under `decodeMask` are those of `hi` and `lo`, and whose other bits are 0. -/
def rowKey (hi : BitVec 5) (lo : BitVec 2) : TxWord := (hi.setWidth 26 <<< 21) ||| (lo.setWidth 26 <<< 7)

theorem and_decodeMask (tw : TxWord) :
    tw &&& decodeMask = rowKey (tw.extractLsb' 21 5) (tw.extractLsb' 7 2) := by
  refine BitVec.eq_of_getLsbD_eq fun i hi => ?_
  interval_cases i <;> simp [decodeMask, rowKey]

theorem mask_and_decodeMask {v : Variant} : ∀ row ∈ opcodeRows v, row.2.2 &&& decodeMask = row.2.2 := by
  cases v <;> decide

/-- Which rows match a word depends on its bits under `decodeMask` only. -/
theorem matchingRows_and_decodeMask (v : Variant) (tw : TxWord) :
    matchingRows v (tw &&& decodeMask) = matchingRows v tw := by
  unfold matchingRows
  congr 1
  refine List.filter_congr fun row hrow => ?_
  rw [BitVec.and_assoc, BitVec.and_comm decodeMask, mask_and_decodeMask row hrow]

/-- Which class a transaction is depends on the 8 KB window of its address, the lowest address bit and the highest data
bit only. -/
theorem mnemonic_classify_congr (v : Variant) (sp : Space) (rw : Dir) {a a' : Addr} {val val' : Byte}
    (hwindow : a.toNat / 8192 = a'.toNat / 8192) (hbit : a.getLsbD 0 = a'.getLsbD 0)
    (hval : val.getLsbD 7 = val'.getLsbD 7) :
    (classify v sp rw a val).mnemonic = (classify v sp rw a' val').mnemonic := by
  have hlt (n : Nat) (hn : n % 8192 = 0) : a.toNat < n ↔ a'.toNat < n := by omega
  cases v <;> cases sp <;> cases rw <;>
    simp (disch := decide) only [classify, classifyM0, classifyM1, classifyM4, chrPieces, hlt, hbit, hval] <;>
    repeat' split
  all_goals rfl

/-- So the class of a word depends on its bits under `decodeMask` only. -/
theorem mnemonic_classOf_and_decodeMask (v : Variant) (tw : TxWord) :
    (classOf v (tw &&& decodeMask)).mnemonic = (classOf v tw).mnemonic := by
  have hspace : spaceOf (tw &&& decodeMask) = spaceOf tw := by simp [spaceOf, decodeMask]
  have hdir : dirOf (tw &&& decodeMask) = dirOf tw := by simp [dirOf, decodeMask]
  have hwindow : (addrOf (tw &&& decodeMask)).extractLsb' 13 3 = (addrOf tw).extractLsb' 13 3 := by
    refine BitVec.eq_of_getLsbD_eq fun i hi => ?_
    interval_cases i <;> simp [addrOf, decodeMask]
  have hdiv (a : Addr) : (a.extractLsb' 13 3).toNat = a.toNat / 8192 := by
    have := a.isLt
    rw [BitVec.extractLsb'_toNat, Nat.shiftRight_eq_div_pow]
    omega
  have hbit : (addrOf (tw &&& decodeMask)).getLsbD 0 = (addrOf tw).getLsbD 0 := by simp [addrOf, decodeMask]
  have hval : (valOf (tw &&& decodeMask)).getLsbD 7 = (valOf tw).getLsbD 7 := by simp [valOf, decodeMask]
  rw [classOf, hspace, hdir]
  exact mnemonic_classify_congr v _ _ (by rw [← hdiv, ← hdiv, hwindow]) hbit hval

/-- The table and the classifier agree on the 128 words that only have bits under `decodeMask`. -/
theorem matchingRows_rowKey (v : Variant) : ∀ (hi : BitVec 5) (lo : BitVec 2),
    matchingRows v (rowKey hi lo) = [(classOf v (rowKey hi lo)).mnemonic] := by
  cases v <;> decide

/-! ### The obligations -/

/-- Settles O1: each word is decoded by evaluation. -/
theorem specWordsDecode : Obligations.SpecWordsDecode :=
  ⟨rfl, rfl, rfl, rfl, rfl, rfl, rfl, rfl, rfl, rfl, rfl, rfl⟩

/-- Settles O2: the word carries the operands, and a well-formed instruction is the class of its operands. -/
theorem decodeOfEncodeIsTheInstruction : Obligations.DecodeOfEncodeIsTheInstruction := by
  intro i live hwf hlive
  cases hv : i.variant with
  | none =>
    cases i with
    | construct img => rfl
    | _ => cases hv
  | some v =>
    obtain ⟨sp, rw, a, val, hops⟩ := operands_of_variant hv
    obtain rfl : live = some v := by simpa [hv] using hlive
    rw [encode_of_operands hops, decode, spaceOf_packTx, dirOf_packTx, addrOf_packTx, valOf_packTx,
      classify_of_wf hwf hv hops]

/-- Settles O3: the class of a word is well formed, and its operands are the word's fields. -/
theorem encodeOfDecodeIsTheWord : Obligations.EncodeOfDecodeIsTheWord := by
  intro v tw
  obtain ⟨hv, hops⟩ := classify_variant_operands v (spaceOf tw) (dirOf tw) (addrOf tw) (valOf tw)
  exact ⟨_, rfl, classify_wf .., hv, by rw [encode_of_operands hops, packTx_fields_data]⟩

/-- Settles O4: table and decoder look at the bits under `decodeMask` only, and agree on those. -/
theorem exactlyOneTableRowMatches : Obligations.ExactlyOneTableRowMatches := by
  intro v tw
  refine ⟨_, rfl, ?_⟩
  have hkey := matchingRows_rowKey v (tw.extractLsb' 21 5) (tw.extractLsb' 7 2)
  rw [← and_decodeMask] at hkey
  rw [← matchingRows_and_decodeMask, hkey, mnemonic_classOf_and_decodeMask]

end Sys2Proof
end

section
/-! PROOFS. The translation of a transaction (20_memory.md, R62 to R67): its target as a function of the chip, the space,
the direction and the address, what a load returns from a target and what a store makes of the chip at a target; and that
a step on a live chip does exactly this. -/

namespace Sys2Proof.Machine

/-! ### The decodes that never fail (R186, R203) -/

/-- The PRG mode of a control register. -/
def m1Mode (ctrl : Byte) : PrgMode := (prgModeOf (ctrlPrgMode ctrl).toNat).getD .fixLast

theorem prgModeOf_ctrl (ctrl : Byte) : prgModeOf (ctrlPrgMode ctrl).toNat = some (m1Mode ctrl) := by
  obtain ⟨mode, h⟩ := prgModeOf_isSome ctrl
  simp [m1Mode, h]

/-- The slot that a bank select register selects. -/
def m4Slot (bankSelect : Byte) : Slot := (slotOf (updateSelect bankSelect).toNat).getD .prgBank1

theorem slotOf_updateSelect (bankSelect : Byte) : slotOf (updateSelect bankSelect).toNat = some (m4Slot bankSelect) := by
  obtain ⟨sl, h⟩ := slotOf_isSome bankSelect
  simp [m4Slot, h]

/-! ### Targets (R62 to R65) -/

def Chip.variant : Chip → Variant
  | .m0 => .m0
  | .m1 _ => .m1
  | .m4 _ => .m4

theorem liveVariant_eq {s : State} {c : Cart} (h : s.cart = some c) : liveVariant s = some c.chip.variant := by
  obtain ⟨img, chip⟩ := c
  cases chip <;> exact liveVariant_of_cart h

/-- The 16 KB bank that M1 shows at an address at or above $8000 (R141). -/
def m1Bank (img : RomImage) (r : M1Regs) (a : Addr) : Nat :=
  if a.toNat < 0xC000 then m1BankLo (m1Mode r.ctrl) r.prgBank else m1BankHi (m1Mode r.ctrl) r.prgBank img.prgBanks16

/-- The image offset that M4 shows at an address at or above $8000 (R173 to R177). -/
def m4RomOffset (cfg : Config) (img : RomImage) (r : M4Regs) (a : Addr) : Nat :=
  if a.toNat < 0xA000 then
    prgOffset (m4BankW8 (swap8000 cfg r.bankSelect) r.prgBank0 img.prgBanks8) size8K (low13 a) img.prgLen
  else if a.toNat < 0xC000 then prgOffset r.prgBank1.toNat size8K (low13 a) img.prgLen
  else if a.toNat < 0xE000 then
    prgOffset (m4BankWC (swap8000 cfg r.bankSelect) r.prgBank0 img.prgBanks8) size8K (low13 a) img.prgLen
  else (img.prgBanks8 - 1) * size8K + low13 a

/-- The target of a PRG load (R62 to R65). -/
def prgLoadTarget (cfg : Config) (c : Cart) (a : Addr) : Target :=
  match c.chip with
  | .m0 => if a.toNat < 0x8000 then .zero else .rom .prgRom (m0PrgOffset a c.image.prgLen)
  | .m1 r =>
    if a.toNat < 0x8000 then .zero
    else .rom .prgRom (prgOffset (m1Bank c.image r a) size16K (low14 a) c.image.prgLen)
  | .m4 r =>
    if a.toNat < 0x6000 then .zero
    else if a.toNat < 0x8000 then .ram .prgRam (low13 a)
    else .rom .prgRom (m4RomOffset cfg c.image r a)

/-- The target of a CHR load: CHR-RAM on M1, CHR-ROM on the others (R63). -/
def chrLoadTarget (chip : Chip) (a : Addr) : Target :=
  match chip with
  | .m1 _ => if a.toNat < 0x2000 then .ram .chrRam a.toNat else .zero
  | .m0 => if a.toNat < 0x2000 then .rom .chrRom a.toNat else .zero
  | .m4 _ => if a.toNat < 0x2000 then .rom .chrRom a.toNat else .zero

def loadTarget (cfg : Config) (c : Cart) : Space → Addr → Target
  | .prg, a => prgLoadTarget cfg c a
  | .chr, a => chrLoadTarget c.chip a

/-- The target of a PRG store (R64, R65). -/
def prgStoreTarget (chip : Chip) (a : Addr) : Target :=
  match chip with
  | .m0 => .ignore
  | .m1 _ => if a.toNat < 0x8000 then .ignore else .reg (.serial (serialDest a))
  | .m4 r =>
    if a.toNat < 0x6000 then .ignore
    else if a.toNat < 0x8000 then .ram .prgRam (low13 a)
    else if a.toNat < 0xA000 then
      if a.getLsbD 0 then .reg (.slot (m4Slot r.bankSelect)) else .reg .bankSelect
    else .ignore

/-- The target of a CHR store: only M1 has a CHR memory that can be written (R63). -/
def chrStoreTarget (chip : Chip) (a : Addr) : Target :=
  match chip with
  | .m1 _ => if a.toNat < 0x2000 then .ram .chrRam a.toNat else .ignore
  | .m0 => .ignore
  | .m4 _ => .ignore

def storeTarget (chip : Chip) : Space → Addr → Target
  | .prg, a => prgStoreTarget chip a
  | .chr, a => chrStoreTarget chip a

theorem loadTarget_m0 (cfg : Config) (img : RomImage) (sp : Space) (a : Addr) :
    loadTarget cfg ⟨img, .m0⟩ sp a =
      if sp = .chr then (if a.toNat < 0x2000 then .rom .chrRom a.toNat else .zero)
      else if a.toNat < 0x8000 then .zero
      else .rom .prgRom (if 16384 < img.prgLen then a.toNat % 32768 else a.toNat % 16384) := by
  cases sp with
  | prg => rw [← m0PrgOffset_eq]; rfl
  | chr => rfl

section Targets

variable (cfg : Config) (img : RomImage) (r : M1Regs) (q : M4Regs) (sp : Space) (a : Addr)

theorem loadTarget_m1_prg : loadTarget cfg ⟨img, .m1 r⟩ .prg a =
    if a.toNat < 0x8000 then .zero else .rom .prgRom (prgOffset (m1Bank img r a) size16K (low14 a) img.prgLen) := rfl

theorem loadTarget_m1_chr : loadTarget cfg ⟨img, .m1 r⟩ .chr a =
    if a.toNat < 0x2000 then .ram .chrRam a.toNat else .zero := rfl

theorem loadTarget_m4_prg : loadTarget cfg ⟨img, .m4 q⟩ .prg a =
    if a.toNat < 0x6000 then .zero else if a.toNat < 0x8000 then .ram .prgRam (low13 a)
    else .rom .prgRom (m4RomOffset cfg img q a) := rfl

theorem loadTarget_m4_chr : loadTarget cfg ⟨img, .m4 q⟩ .chr a =
    if a.toNat < 0x2000 then .rom .chrRom a.toNat else .zero := rfl

theorem storeTarget_m0 : storeTarget .m0 sp a = .ignore := by
  cases sp <;> rfl

theorem storeTarget_m1_prg : storeTarget (.m1 r) .prg a =
    if a.toNat < 0x8000 then .ignore else .reg (.serial (serialDest a)) := rfl

theorem storeTarget_m1_chr : storeTarget (.m1 r) .chr a =
    if a.toNat < 0x2000 then .ram .chrRam a.toNat else .ignore := rfl

theorem storeTarget_m4_prg : storeTarget (.m4 q) .prg a =
    if a.toNat < 0x6000 then .ignore else if a.toNat < 0x8000 then .ram .prgRam (low13 a)
    else if a.toNat < 0xA000 then
      if a.getLsbD 0 then .reg (.slot (m4Slot q.bankSelect)) else .reg .bankSelect
    else .ignore := rfl

theorem storeTarget_m4_chr : storeTarget (.m4 q) .chr a = .ignore := rfl

end Targets

/-! ### What a target does -/

/-- The byte a load returns from its target; none where the offset lies outside its store. -/
def targetByte (c : Cart) : Target → Option Byte
  | .zero => some 0
  | .rom st off => memRead c st off
  | .ram st off => memRead c st off
  | .ignore => none
  | .reg _ => none

/-- The chip after a store of `val` to its target. -/
def storeTo (chip : Chip) (tgt : Target) (val : Byte) : Chip :=
  match chip, tgt with
  | .m1 r, .reg (.serial d) => .m1 (if val.getLsbD 7 then serialReset r else serialShift r d val)
  | .m1 r, .ram .chrRam off => .m1 { r with chrRam := Memory.write r.chrRam off val }
  | .m4 r, .ram .prgRam off => .m4 { r with prgRam := Memory.write r.prgRam off val }
  | .m4 r, .reg .bankSelect => .m4 { r with bankSelect := val }
  | .m4 r, .reg (.slot sl) => .m4 (writeSlot r sl val)
  | chip, _ => chip

/-! ### What a store makes of M1 -/

/-- M1's registers after a PRG store (R146 to R153). -/
def serialWrite (r : M1Regs) (a : Addr) (val : Byte) : M1Regs :=
  if a.toNat < 0x8000 then r else if val.getLsbD 7 then serialReset r else serialShift r (serialDest a) val

/-- CHR-RAM after a CHR store (R158, R159). -/
def chrRamWrite (m : Memory) (a : Addr) (val : Byte) : Memory :=
  if a.toNat < 0x2000 then Memory.write m a.toNat val else m

theorem storeTo_m1_prg (r : M1Regs) (a : Addr) (val : Byte) :
    storeTo (.m1 r) (storeTarget (.m1 r) .prg a) val = .m1 (serialWrite r a val) := by
  rw [storeTarget, prgStoreTarget, serialWrite]
  split <;> rfl

theorem storeTo_m1_chr (r : M1Regs) (a : Addr) (val : Byte) :
    storeTo (.m1 r) (storeTarget (.m1 r) .chr a) val = .m1 { r with chrRam := chrRamWrite r.chrRam a val } := by
  rw [storeTarget, chrStoreTarget, chrRamWrite]
  split <;> rfl

theorem serialShift_with_chrRam (r : M1Regs) (m : Memory) (d : SerialDest) (val : Byte) :
    serialShift { r with chrRam := m } d val = { serialShift r d val with chrRam := m } := by
  rw [serialShift_eq, serialShift_eq]
  split
  · cases d <;> rfl
  · rfl

theorem serialWrite_with_chrRam (r : M1Regs) (m : Memory) (a : Addr) (val : Byte) :
    serialWrite { r with chrRam := m } a val = { serialWrite r a val with chrRam := m } := by
  unfold serialWrite
  rw [serialShift_with_chrRam]
  split_ifs <;> rfl

theorem serialWrite_chrRam (r : M1Regs) (a : Addr) (val : Byte) : (serialWrite r a val).chrRam = r.chrRam := by
  unfold serialWrite
  split_ifs <;> simp

theorem serialWrite_prgRam (r : M1Regs) (a : Addr) (val : Byte) : (serialWrite r a val).prgRam = r.prgRam := by
  unfold serialWrite
  split_ifs <;> simp

/-! ### The state after a transaction -/

/-- The state after a load returned `b` from `tgt`. -/
abbrev State.loaded (s : State) (tgt : Target) (b : Byte) : State := { s with out := some b, target := some tgt }

/-- The state after a store to `tgt` left the chip `c`. -/
abbrev State.stored (s : State) (tgt : Target) (c : Cart) : State :=
  { s with out := none, target := some tgt, cart := some c }

/-! ### Loads run their translation -/

/-- The outcome of a load from `tgt`. -/
def loadFrom (tgt : Target) (c : Cart) (s : State) : Host.Outcome State Fault Refusal :=
  match targetByte c tgt with
  | some b => .next (s.loaded tgt b)
  | none => .fault .outsideStore

theorem loadFrom_eq_next_iff {tgt : Target} {c : Cart} {s t : State} :
    loadFrom tgt c s = .next t ↔ ∃ b, targetByte c tgt = some b ∧ t = s.loaded tgt b := by
  unfold loadFrom
  cases targetByte c tgt <;> simp [eq_comm]

theorem m1PrgLoad_eq_loadFrom (bank : PrgMode → Nat) (addr : Addr) (c : Cart) (r : M1Regs) (s : State) :
    m1PrgLoad bank addr c r s =
      loadFrom (.rom .prgRom (prgOffset (bank (m1Mode r.ctrl)) size16K (low14 addr) c.image.prgLen)) c s := by
  simp only [m1PrgLoad, prgModeOf_ctrl]
  rfl

theorem exec_load_m0 {s : State} {img : RomImage} (h : s.liveM0 img) (sp : Space) (a : Addr) (val : Byte) :
    exec (classifyM0 sp .load a val) s = loadFrom (loadTarget s.config ⟨img, .m0⟩ sp a) ⟨img, .m0⟩ s := by
  cases sp
  all_goals
    simp only [classifyM0, chrPieces, loadTarget, prgLoadTarget, chrLoadTarget]
    repeat' split
    all_goals exact onM0_live h _

theorem exec_load_m1 {s : State} {img : RomImage} {r : M1Regs} (h : s.liveM1 img r) (sp : Space) (a : Addr) (val : Byte) :
    exec (classifyM1 sp .load a val) s = loadFrom (loadTarget s.config ⟨img, .m1 r⟩ sp a) ⟨img, .m1 r⟩ s := by
  cases sp with
  | prg =>
    simp only [classifyM1, loadTarget, prgLoadTarget, m1Bank]
    repeat' split
    · exact onM1_live h _
    · exact (onM1_live h _).trans (m1PrgLoad_eq_loadFrom ..)
    · exact (onM1_live h _).trans (m1PrgLoad_eq_loadFrom ..)
  | chr =>
    simp only [classifyM1, chrPieces, loadTarget, chrLoadTarget]
    repeat' split
    all_goals exact onM1_live h _

theorem exec_load_m4 {s : State} {img : RomImage} {r : M4Regs} (h : s.liveM4 img r) (sp : Space) (a : Addr) (val : Byte) :
    exec (classifyM4 sp .load a val) s = loadFrom (loadTarget s.config ⟨img, .m4 r⟩ sp a) ⟨img, .m4 r⟩ s := by
  generalize htgt : loadTarget s.config ⟨img, .m4 r⟩ sp a = tgt
  cases sp
  all_goals
    simp only [classifyM4, chrPieces]
    repeat' split
  all_goals
    simp (disch := omega) only [loadTarget, prgLoadTarget, chrLoadTarget, m4RomOffset, if_pos, if_neg] at htgt
    subst htgt
    exact onM4_live h _

/-- A load of a live chip returns the byte at its target (R62, R112). -/
theorem exec_load {s : State} {c : Cart} (hf : s.fault = none) (hc : s.cart = some c) (sp : Space) (a : Addr)
    (val : Byte) : exec (classify c.chip.variant sp .load a val) s = loadFrom (loadTarget s.config c sp a) c s := by
  obtain ⟨img, chip⟩ := c
  cases chip with
  | m0 => exact exec_load_m0 ⟨hf, hc⟩ sp a val
  | m1 r => exact exec_load_m1 ⟨hf, hc⟩ sp a val
  | m4 r => exact exec_load_m4 ⟨hf, hc⟩ sp a val

/-! ### Stores run their translation -/

/-- The outcome of a store of `val` to `tgt`. -/
def storeOn (tgt : Target) (val : Byte) (c : Cart) (s : State) : Host.Outcome State Fault Refusal :=
  .next (s.stored tgt { c with chip := storeTo c.chip tgt val })

@[simp] theorem storeTo_ignore (chip : Chip) (val : Byte) : storeTo chip .ignore val = chip := by
  cases chip <;> rfl

theorem storeIgnored_eq_storeOn {s : State} {c : Cart} (h : s.cart = some c) (val : Byte) :
    storeIgnored s = storeOn .ignore val c s := by
  rw [storeOn, storeTo_ignore, storeIgnored, State.stored, ← h]

/-- The destination that the address bits [14:13] name is the one of the address's 8 KB window (R64). -/
theorem serialDest_eq {a : Addr} (h : 0x8000 ≤ a.toNat) :
    serialDest a = if a.toNat < 0xA000 then .ctrl else if a.toNat < 0xC000 then .chrBank0
      else if a.toNat < 0xE000 then .chrBank1 else .prgBank := by
  have hbits : (a.extractLsb' 13 2).toNat = a.toNat / 8192 % 4 := by
    simp [BitVec.extractLsb'_toNat, Nat.shiftRight_eq_div_pow]
  simp only [serialDest, BitVec.ofNat_eq_ofNat, ← BitVec.toNat_inj, hbits, BitVec.toNat_ofNat]
  obtain h | h | h | h : a.toNat / 8192 = 4 ∨ a.toNat / 8192 = 5 ∨ a.toNat / 8192 = 6 ∨ a.toNat / 8192 = 7 := by
    have := a.isLt
    omega
  all_goals simp (disch := omega) only [if_pos, if_neg]

theorem exec_store_m0 {s : State} {img : RomImage} (h : s.liveM0 img) (sp : Space) (a : Addr) (val : Byte) :
    exec (classifyM0 sp .store a val) s = storeOn (storeTarget .m0 sp a) val ⟨img, .m0⟩ s := by
  cases sp
  all_goals exact (onM0_live h _).trans (storeIgnored_eq_storeOn h.2 val)

/-- A PRG store at or above $8000 is a reset write or, by its window, a qualifying write (R147, R150 to R153). -/
theorem exec_prgStore_m1 {s : State} {img : RomImage} {r : M1Regs} (h : s.liveM1 img r) {a : Addr} (ha : 0x8000 ≤ a.toNat)
    (val : Byte) :
    exec (classifyM1 .prg .store a val) s = storeOn (.reg (.serial (serialDest a))) val ⟨img, .m1 r⟩ s := by
  have hshift (hval : ¬ val.getLsbD 7) (d : SerialDest) :
      m1Shift d val s = storeOn (.reg (.serial d)) val ⟨img, .m1 r⟩ s := by
    rw [m1Shift_live h, storeOn, storeTo, if_neg hval]
  simp only [classifyM1, if_neg (Nat.not_lt.2 ha)]
  by_cases hval : val.getLsbD 7
  · rw [if_pos hval, storeOn, storeTo, if_pos hval]
    exact onM1_live h _
  · rw [if_neg hval, serialDest_eq ha]
    repeat' split
    all_goals exact hshift hval _

theorem exec_store_m1 {s : State} {img : RomImage} {r : M1Regs} (h : s.liveM1 img r) (sp : Space) (a : Addr)
    (val : Byte) : exec (classifyM1 sp .store a val) s = storeOn (storeTarget (.m1 r) sp a) val ⟨img, .m1 r⟩ s := by
  cases sp with
  | prg =>
    rw [storeTarget, prgStoreTarget]
    split
    · simp only [classifyM1, if_pos ‹_›]
      exact (onM1_live h _).trans (storeIgnored_eq_storeOn h.2 val)
    · exact exec_prgStore_m1 h (Nat.not_lt.1 ‹_›) val
  | chr =>
    simp only [classifyM1, chrPieces, storeTarget, chrStoreTarget]
    split
    · exact (onM1_live h _).trans (storeRam_of_write (memWrite_chrRam_m1 img r val ‹_›))
    · repeat' split
      all_goals exact (onM1_live h _).trans (storeIgnored_eq_storeOn h.2 val)

theorem exec_store_m4 {s : State} {img : RomImage} {r : M4Regs} (h : s.liveM4 img r) (sp : Space) (a : Addr)
    (val : Byte) : exec (classifyM4 sp .store a val) s = storeOn (storeTarget (.m4 r) sp a) val ⟨img, .m4 r⟩ s := by
  have hignored : onM4 s (fun _ _ => storeIgnored s) = storeOn .ignore val ⟨img, .m4 r⟩ s :=
    (onM4_live h _).trans (storeIgnored_eq_storeOn h.2 val)
  generalize htgt : storeTarget (.m4 r) sp a = tgt
  cases sp with
  | prg =>
    simp only [classifyM4]
    repeat' split
    all_goals
      simp (disch := omega) only [storeTarget, prgStoreTarget, if_pos, if_neg, *] at htgt
      subst htgt
    · exact hignored
    · exact hignored
    · exact (onM4_live h _).trans (storeRam_of_write (memWrite_prgRam_m4 img r val (low13_lt a)))
    · exact (onM4_live h _).trans (by simp only [slotOf_updateSelect]; rfl)
    · exact onM4_live h _
    · exact hignored
    · exact hignored
  | chr => exact htgt ▸ hignored

/-- A store on a live chip goes to its target and returns nothing (R62, R112). -/
theorem exec_store {s : State} {c : Cart} (hf : s.fault = none) (hc : s.cart = some c) (sp : Space) (a : Addr)
    (val : Byte) : exec (classify c.chip.variant sp .store a val) s = storeOn (storeTarget c.chip sp a) val c s := by
  obtain ⟨img, chip⟩ := c
  cases chip with
  | m0 => exact exec_store_m0 ⟨hf, hc⟩ sp a val
  | m1 r => exact exec_store_m1 ⟨hf, hc⟩ sp a val
  | m4 r => exact exec_store_m4 ⟨hf, hc⟩ sp a val

/-! ### The step of a word -/

/-- A word has a step only on a live chip without a recorded fault (R113). -/
theorem live_of_step_word {s t : State} {tw : TxWord} {rest : List Presented} (hp : s.pending = .word tw :: rest)
    (h : step s = .next t) : s.fault = none ∧ ∃ c, s.cart = some c := by
  obtain ⟨v, -, he⟩ := step_word_next hp h
  cases v with
  | m0 => obtain ⟨img, ⟨hf, hc⟩, -⟩ := m0_next he; exact ⟨hf, _, hc⟩
  | m1 => obtain ⟨img, r, ⟨hf, hc⟩, -⟩ := m1_next he; exact ⟨hf, _, hc⟩
  | m4 => obtain ⟨img, r, ⟨hf, hc⟩, -⟩ := m4_next he; exact ⟨hf, _, hc⟩

section Word

variable {s : State} {c : Cart} {tw : TxWord} {rest : List Presented}

theorem step_load (hf : s.fault = none) (hc : s.cart = some c) (hp : s.pending = .word tw :: rest)
    (hd : dirOf tw = .load) :
    step s = loadFrom (loadTarget s.config c (spaceOf tw) (addrOf tw)) c (accept s (.word tw) rest) := by
  rw [step_word hp (liveVariant_eq hc), hd]
  exact exec_load (s := accept s (.word tw) rest) hf hc ..

theorem step_store (hf : s.fault = none) (hc : s.cart = some c) (hp : s.pending = .word tw :: rest)
    (hd : dirOf tw = .store) :
    step s = storeOn (storeTarget c.chip (spaceOf tw) (addrOf tw)) (valOf tw) c (accept s (.word tw) rest) := by
  rw [step_word hp (liveVariant_eq hc), hd]
  exact exec_store (s := accept s (.word tw) rest) hf hc ..

end Word

end Sys2Proof.Machine
end

section
/-! PROOFS. Every transaction has its translation as its step (40_capability.md section 2, 60_exceptions.md): what a step
of a word can do, that on an accepted image each load finds its byte, and O5, O6, O7, O8 and O9. -/

namespace Sys2Proof.Machine

/-! ### Offsets lie inside their stores (R66, R67) -/

theorem prgLen_pos_of_lengthOk {img : RomImage} (h : img.lengthOk = true) : 0 < img.prgLen :=
  ((lengthOk_iff img).1 h).1

/-- The last 8 KB bank ends where the image ends (R176, decision D7). -/
theorem lastBank8_offset {img : RomImage} (h : img.lengthOk = true) (k : Nat) :
    (img.prgBanks8 - 1) * size8K + k = img.prgLen - 8192 + k := by
  obtain ⟨hpos, hbanks, -⟩ := (lengthOk_iff img).1 h
  simp only [RomImage.prgBanks8, size8K]
  omega

theorem m4RomOffset_lt_prgLen {img : RomImage} (h : img.lengthOk = true) (cfg : Config) (r : M4Regs) (a : Addr) :
    m4RomOffset cfg img r a < img.prgLen := by
  have hpos := prgLen_pos_of_lengthOk h
  unfold m4RomOffset
  split_ifs
  · exact prgOffset_lt hpos ..
  · exact prgOffset_lt hpos ..
  · exact prgOffset_lt hpos ..
  · have hlen := prgLen_ge_of_lengthOk h
    rw [lastBank8_offset h, low13_eq]
    omega

/-- A PRG-ROM target lies inside an accepted image. -/
theorem prgLoadTarget_rom_lt {c : Cart} {cfg : Config} {a : Addr} {st : PhysStore} {off : Nat}
    (hlen : c.image.lengthOk = true) (h : prgLoadTarget cfg c a = .rom st off) : st = .prgRom ∧ off < c.image.prgLen := by
  unfold prgLoadTarget at h
  repeat' split at h
  all_goals cases h
  · exact ⟨rfl, m0PrgOffset_lt_prgLen hlen a⟩
  · exact ⟨rfl, prgOffset_lt (prgLen_pos_of_lengthOk hlen) ..⟩
  · exact ⟨rfl, m4RomOffset_lt_prgLen hlen ..⟩

/-- The two stores that write a RAM: a CHR store of M1 below $2000, and a PRG store of M4 in $6000-$7FFF (R158, R179). -/
theorem storeTarget_ram {chip : Chip} {sp : Space} {a : Addr} {st : PhysStore} {off : Nat}
    (h : storeTarget chip sp a = .ram st off) :
    (chip.variant = .m1 ∧ st = .chrRam ∧ sp = .chr ∧ a.toNat < 0x2000 ∧ off = a.toNat) ∨
    (chip.variant = .m4 ∧ st = .prgRam ∧ sp = .prg ∧ a.toNat / 8192 = 3 ∧ off = a.toNat % 8192) := by
  cases sp <;> simp only [storeTarget, prgStoreTarget, chrStoreTarget] at h <;> repeat' split at h
  all_goals cases h
  · exact .inr ⟨rfl, rfl, rfl, by omega, low13_eq a⟩
  · exact .inl ⟨rfl, rfl, rfl, ‹_›, rfl⟩

theorem storeTarget_ram_lt {chip : Chip} {sp : Space} {a : Addr} {st : PhysStore} {off : Nat}
    (h : storeTarget chip sp a = .ram st off) : off < size8K := by
  obtain ⟨-, -, -, hlt, rfl⟩ | ⟨-, -, -, -, rfl⟩ := storeTarget_ram h
  · exact hlt
  · exact Nat.mod_lt _ (by decide)

/-- No store reaches a ROM (R67). -/
theorem storeTarget_ne_rom (chip : Chip) (sp : Space) (a : Addr) (st : PhysStore) (off : Nat) :
    storeTarget chip sp a ≠ .rom st off := by
  cases sp <;> simp only [storeTarget, prgStoreTarget, chrStoreTarget] <;> repeat' split
  all_goals nofun

theorem targetByte_prgLoadTarget {c : Cart} (hlen : c.image.lengthOk = true) (cfg : Config) (a : Addr) :
    ∃ b, targetByte c (prgLoadTarget cfg c a) = some b := by
  cases htgt : prgLoadTarget cfg c a with
  | zero => exact ⟨0, rfl⟩
  | rom st off =>
    obtain ⟨rfl, hlt⟩ := prgLoadTarget_rom_lt hlen htgt
    exact ⟨_, memRead_prgRom c hlt⟩
  | ram st off =>
    obtain ⟨img, chip⟩ := c
    cases chip <;> simp only [prgLoadTarget] at htgt <;> repeat' split at htgt
    all_goals cases htgt
    exact ⟨_, memRead_prgRam_m4 img _ (low13_lt a)⟩
  | ignore | reg =>
    unfold prgLoadTarget at htgt
    repeat' split at htgt
    all_goals cases htgt

theorem targetByte_chrLoadTarget (c : Cart) (a : Addr) : ∃ b, targetByte c (chrLoadTarget c.chip a) = some b := by
  obtain ⟨img, chip⟩ := c
  cases chip <;> simp only [chrLoadTarget] <;> split
  case m1.isTrue h => exact ⟨_, memRead_chrRam_m1 img _ h⟩
  all_goals exact ⟨_, rfl⟩

/-- On an accepted image every load finds a byte at its target. -/
theorem targetByte_loadTarget {c : Cart} (hlen : c.image.lengthOk = true) (cfg : Config) (sp : Space) (a : Addr) :
    ∃ b, targetByte c (loadTarget cfg c sp a) = some b := by
  cases sp with
  | prg => exact targetByte_prgLoadTarget hlen cfg a
  | chr => exact targetByte_chrLoadTarget c a

/-! ### What a step of a word does -/

section Word

variable {s t : State} {c : Cart} {tw : TxWord} {rest : List Presented}

/-- Everything a step of a word can do: a load returns the byte at its target, a store changes the chip at its target. -/
theorem step_word_cases (hp : s.pending = .word tw :: rest) (h : step s = .next t) :
    s.fault = none ∧ ∃ c, s.cart = some c ∧
      ((dirOf tw = .load ∧ ∃ tgt b, tgt = loadTarget s.config c (spaceOf tw) (addrOf tw) ∧ targetByte c tgt = some b ∧
          t = (accept s (.word tw) rest).loaded tgt b) ∨
       (dirOf tw = .store ∧ ∃ tgt, tgt = storeTarget c.chip (spaceOf tw) (addrOf tw) ∧
          t = (accept s (.word tw) rest).stored tgt { c with chip := storeTo c.chip tgt (valOf tw) })) := by
  obtain ⟨hf, c, hc⟩ := live_of_step_word hp h
  refine ⟨hf, c, hc, ?_⟩
  cases hd : dirOf tw with
  | load =>
    obtain ⟨b, hb, rfl⟩ := loadFrom_eq_next_iff.1 ((step_load hf hc hp hd).symm.trans h)
    exact .inl ⟨rfl, _, b, rfl, hb, rfl⟩
  | store =>
    obtain rfl := Host.Outcome.next.inj ((step_store hf hc hp hd).symm.trans h)
    exact .inr ⟨rfl, _, rfl, rfl⟩

/-- On a live chip over an accepted image every word has a step, which changes nothing but the chip and the outputs, and
returns a byte for a load only. -/
theorem step_word_isNext (hf : s.fault = none) (hc : s.cart = some c) (hlen : c.image.lengthOk = true)
    (hp : s.pending = .word tw :: rest) :
    ∃ out tgt c', step s = .next { s with pending := rest, req := some tw, out := out, target := tgt, cart := some c' } ∧
      (out.isSome = true ↔ dirOf tw = .load) := by
  cases hd : dirOf tw with
  | load =>
    obtain ⟨b, hb⟩ := targetByte_loadTarget hlen s.config (spaceOf tw) (addrOf tw)
    have hnext := (step_load hf hc hp hd).trans (loadFrom_eq_next_iff.2 ⟨b, hb, rfl⟩)
    exact ⟨_, _, c, by rw [hnext, State.loaded, ← hc]; rfl, by simp⟩
  | store => exact ⟨_, _, _, step_store hf hc hp hd, by simp⟩

end Word

/-! ### Stuck transactions (R113) -/

theorem onLive_of_fault {s : State} {e : ErrorRecord} (h : s.fault = some e)
    (k : Cart → Host.Outcome State Fault Refusal) : onLive s k = .fault .faultRecorded := by
  simp [onLive, h]

/-- After a recorded fault no transaction class of any variant has a meaning (R113). -/
theorem exec_classify_of_fault {s : State} {e : ErrorRecord} (h : s.fault = some e) (v : Variant) (sp : Space) (rw : Dir)
    (a : Addr) (val : Byte) : exec (classify v sp rw a val) s = .fault .faultRecorded := by
  cases v <;> cases sp <;> cases rw <;> simp only [classify, classifyM0, classifyM1, classifyM4, chrPieces] <;>
    repeat' split
  all_goals exact onLive_of_fault h _

theorem step_word_of_fault {s : State} {c : Cart} {e : ErrorRecord} {tw : TxWord} {rest : List Presented}
    (hp : s.pending = .word tw :: rest) (hc : s.cart = some c) (he : s.fault = some e) :
    step s = .fault .faultRecorded :=
  (step_word hp (liveVariant_eq hc)).trans (exec_classify_of_fault (s := accept s (.word tw) rest) he ..)

theorem step_word_of_no_cart {s : State} {tw : TxWord} {rest : List Presented} (hp : s.pending = .word tw :: rest)
    (hc : s.cart = none) : step s = .fault .noLiveChip := by
  simp [step, hp, liveVariant_none hc, decode]

/-! ### The parts of the invariant -/

theorem Cart.inv_iff {c : Cart} :
    c.inv = true ↔ c.image.canonical = true ∧ c.image.lengthOk = true ∧ chipInv c.image.mapperId c.chip = true := by
  simp [Cart.inv, and_assoc]

theorem State.inv_iff {s : State} :
    s.inv = true ↔ s.fault = none ∧ ∀ c, s.cart = some c → c.inv = true ∧ s.constructErr = none := by
  unfold State.inv
  cases s.cart <;> simp

theorem State.lengthOk_of_inv {s : State} {c : Cart} (h : s.inv = true) (hc : s.cart = some c) :
    c.image.lengthOk = true := by
  obtain ⟨-, hcart⟩ := State.inv_iff.1 h
  obtain ⟨-, hlen, -⟩ := Cart.inv_iff.1 (hcart c hc).1
  exact hlen

/-! ### The word that `withFetchWord` presents (log entry 4) -/

/-- It finds a live M4 chip: the one of a state that meets the invariant, or `fetchCart`. -/
theorem withFetchWord_cart {s : State} (hinv : s.inv = true) (nbits : Nat) {w : Nat} (hw : w < 2 ^ 26) :
    ∃ c, (s.withFetchWord nbits w).cart = some c ∧ c.chip.variant = .m4 ∧ c.image.lengthOk = true := by
  rw [State.withFetchWord, if_pos hw]
  by_cases hv : liveVariant s = some tableVariant
  · cases hc : s.cart with
    | none => rw [liveVariant_none hc] at hv; cases hv
    | some c =>
      exact ⟨c, if_pos hv, Option.some.inj ((liveVariant_eq hc).symm.trans hv), State.lengthOk_of_inv hinv hc⟩
  · exact ⟨fetchCart, if_neg hv, rfl, rfl⟩

/-! ### The obligations -/

/-- Settles O7: a load finds its byte, a store always succeeds. -/
theorem everyTransactionHasAStep : Obligations.EveryTransactionHasAStep := by
  intro s c tw rest hf hc hlen hp
  obtain ⟨out, tgt, c', hstep, hout⟩ := step_word_isNext hf hc hlen hp
  exact ⟨_, hstep, hf, rfl, rfl, hout⟩

/-- Settles O8: a step needs a state without a fault, and neither a load nor a store records one. -/
theorem noTransactionReachesUnreachableState : Obligations.NoTransactionReachesUnreachableState := by
  intro s t tw rest hp h
  obtain ⟨hf, c, -, ⟨-, tgt, b, -, -, rfl⟩ | ⟨-, tgt, -, rfl⟩⟩ := step_word_cases hp h
  · exact ⟨hf, hf⟩
  · exact ⟨hf, hf⟩

/-- Settles O9: the placed word finds a live M4 chip, whose rows `decodeTableWord` reads, and there it has a step. -/
theorem fetchedTableWordRunsNext : Obligations.FetchedTableWordRunsNext := by
  intro s nbits w hinv hw
  obtain ⟨c, hc, hv, hlen⟩ := withFetchWord_cart hinv nbits hw
  have hlive : liveVariant (s.withFetchWord nbits w) = some .m4 := hv ▸ liveVariant_eq hc
  have hp : (s.withFetchWord nbits w).pending = .word (BitVec.ofNat 26 w) :: s.pending := by
    rw [State.withFetchWord, if_pos hw]
  have hf : (s.withFetchWord nbits w).fault = none := by rw [State.withFetchWord, if_pos hw]
  obtain ⟨out, tgt, c', hstep, -⟩ := step_word_isNext hf hc hlen hp
  have hexec := step_word hp hlive
  exact ⟨classOf .m4 (BitVec.ofNat 26 w), _, _, if_pos hw, classify_wf .., hexec, rfl, hlive, hexec.symm.trans hstep⟩

/-- Settles O5: `accept` is the state the statement writes out. -/
theorem stepRunsTheDecodedInstruction : Obligations.StepRunsTheDecodedInstruction := by
  intro s p rest i hp hd
  rw [step_of_decode hp hd]
  cases p <;> rfl

/-- Settles O6: without a chip no rows apply, and after a fault no class has a meaning. -/
theorem noLiveChipNoTransaction : Obligations.NoLiveChipNoTransaction :=
  fun _ _ _ hp => ⟨step_word_of_no_cart hp, fun _ _ => step_word_of_fault hp⟩

end Sys2Proof.Machine
end

section
/-! PROOFS. The invariants (10_state.md section 6): the arithmetic of M1's serial port, that a store and a construction
keep the invariant, and O10, O11 and O12. -/

namespace Sys2Proof.Machine

/-! ### M1's serial port (R47, R147 to R149) -/

/-- R47 (a), (b), (c), and the form of the two RAMs, taken apart. -/
structure M1Regs.Inv (r : M1Regs) : Prop where
  writeCount : r.writeCount.toNat ≤ 4
  accum : r.accum.toNat < 2 ^ r.writeCount.toNat
  dest : ∀ d, (readDest r d).toNat < 0x20
  prgRam : ramOk r.prgRam = true
  chrRam : ramOk r.chrRam = true

theorem M1Regs.Inv.bounds {r : M1Regs} (h : r.Inv) :
    r.writeCount.toNat ≤ 4 ∧ r.accum.toNat < 2 ^ r.writeCount.toNat ∧ r.ctrl.toNat ≤ 0x1F ∧ r.chrBank0.toNat ≤ 0x1F ∧
      r.chrBank1.toNat ≤ 0x1F ∧ r.prgBank.toNat ≤ 0x1F :=
  have hle (d : SerialDest) : (readDest r d).toNat ≤ 0x1F := Nat.le_of_lt_succ (h.dest d)
  ⟨h.writeCount, h.accum, hle .ctrl, hle .chrBank0, hle .chrBank1, hle .prgBank⟩

theorem M1Regs.inv_iff {r : M1Regs} : r.inv = true ↔ r.Inv := by
  constructor
  · intro h
    simp only [M1Regs.inv, Bool.and_eq_true, decide_eq_true_eq] at h
    obtain ⟨⟨⟨⟨⟨⟨⟨hcount, haccum⟩, hctrl⟩, hchr0⟩, hchr1⟩, hprg⟩, hprgRam⟩, hchrRam⟩ := h
    exact ⟨hcount, haccum, fun d => by cases d <;> simp only [readDest] <;> omega, hprgRam, hchrRam⟩
  · intro h
    obtain ⟨hcount, haccum, hctrl, hchr0, hchr1, hprg⟩ := h.bounds
    simp only [M1Regs.inv, Bool.and_eq_true, decide_eq_true_eq]
    exact ⟨⟨⟨⟨⟨⟨⟨hcount, haccum⟩, hctrl⟩, hchr0⟩, hchr1⟩, hprg⟩, h.prgRam⟩, h.chrRam⟩

/-- Below position `count` the accumulator is free of the new bit, so the OR is a sum. -/
theorem shiftAccum_toNat {accum val : Byte} {count : BitVec 3} (hcount : count.toNat ≤ 4)
    (haccum : accum.toNat < 2 ^ count.toNat) :
    (shiftAccum accum val count).toNat = accum.toNat + val.toNat % 2 * 2 ^ count.toNat := by
  have hbit : val.toNat % 2 ≤ 1 := by omega
  have hpow : 2 ^ count.toNat ≤ 2 ^ 4 := Nat.pow_le_pow_right (by decide) hcount
  have hle : val.toNat % 2 * 2 ^ count.toNat ≤ 1 * 2 ^ 4 := Nat.mul_le_mul hbit hpow
  rw [shiftAccum_eq, BitVec.toNat_or, BitVec.toNat_ofNat, Nat.mod_eq_of_lt (by omega), Nat.or_comm, Nat.mul_comm,
    ← Nat.two_pow_add_eq_or_of_lt haccum, Nat.add_comm]

/-- One more bit (R47 b). -/
theorem shiftAccum_lt {accum val : Byte} {count : BitVec 3} (hcount : count.toNat ≤ 4)
    (haccum : accum.toNat < 2 ^ count.toNat) : (shiftAccum accum val count).toNat < 2 ^ (count.toNat + 1) := by
  have hbit : val.toNat % 2 * 2 ^ count.toNat ≤ 1 * 2 ^ count.toNat := Nat.mul_le_mul_right _ (by omega)
  rw [shiftAccum_toNat hcount haccum, Nat.pow_succ]
  omega

theorem readDest_lt_writeDest {r : M1Regs} (h : ∀ d, (readDest r d).toNat < 0x20) {d : SerialDest} {v : Byte}
    (hv : v.toNat < 0x20) (d' : SerialDest) : (readDest (writeDest r d v) d').toNat < 0x20 := by
  by_cases hd : d' = d
  · rwa [hd, readDest_writeDest_same]
  · rw [readDest_writeDest_other r v hd]
    exact h d'

theorem readDest_with_serial (r : M1Regs) (count : BitVec 3) (accum : Byte) (d : SerialDest) :
    readDest { r with writeCount := count, accum := accum } d = readDest r d := by
  cases d <;> rfl

theorem serialShift_inv {r : M1Regs} (h : r.Inv) (d : SerialDest) (val : Byte) : (serialShift r d val).Inv := by
  obtain ⟨hcount, haccum, hdest, hprgRam, hchrRam⟩ := h
  have hshift := shiftAccum_lt (val := val) hcount haccum
  rw [serialShift_eq]
  split
  · rw [‹r.writeCount = 4›] at hshift
    have hdest' := readDest_lt_writeDest hdest (d := d) hshift
    exact ⟨by simp, by simp, fun d' => by simpa only [readDest_with_serial, ‹r.writeCount = 4›] using hdest' d',
      by simpa, by simpa⟩
  · have hnext : (r.writeCount + 1).toNat = r.writeCount.toNat + 1 := by bv_omega
    exact ⟨by bv_omega, by rw [hnext]; exact hshift, fun d' => by rw [readDest_with_serial]; exact hdest d', hprgRam,
      hchrRam⟩

/-- The fifth write clears the serial state (R149). -/
theorem serialShift_commit {r : M1Regs} (h : r.writeCount = 4) (d : SerialDest) (val : Byte) :
    (serialShift r d val).writeCount = 0 ∧ (serialShift r d val).accum = 0 := by
  rw [serialShift_eq, if_pos h]
  exact ⟨rfl, rfl⟩

/-- Any other qualifying write lets neither the count nor the accumulator decrease (R148). -/
theorem serialShift_counts {r : M1Regs} (h : r.Inv) (hcount : r.writeCount ≠ 4) (d : SerialDest) (val : Byte) :
    r.writeCount.toNat ≤ (serialShift r d val).writeCount.toNat ∧ r.accum.toNat ≤ (serialShift r d val).accum.toNat := by
  have hle := h.writeCount
  rw [serialShift_eq, if_neg hcount, shiftAccum_toNat hle h.accum]
  exact ⟨by bv_omega, Nat.le_add_right _ _⟩

theorem serialReset_inv {r : M1Regs} (h : r.Inv) : (serialReset r).Inv := by
  obtain ⟨-, -, hdest, hprgRam, hchrRam⟩ := h
  refine ⟨Nat.zero_le 4, Nat.one_pos, fun d => ?_, hprgRam, hchrRam⟩
  cases d with
  | ctrl => exact Nat.or_lt_two_pow (n := 5) (hdest .ctrl) (by decide)
  | chrBank0 => exact hdest .chrBank0
  | chrBank1 => exact hdest .chrBank1
  | prgBank => exact hdest .prgBank

theorem getLsbD_seven_iff (v : Byte) : v.getLsbD 7 = true ↔ 0x80 ≤ v.toNat := by
  revert v; decide

/-- What a transaction makes of M1's registers: a PRG store at or above $8000 is a reset write or a qualifying write, and
anything else changes CHR-RAM at most (R149, R154). -/
theorem step_word_m1 {s t : State} {img img' : RomImage} {r r' : M1Regs} {tw : TxWord} {rest : List Presented}
    (hlive : s.liveM1 img r) (hp : s.pending = .word tw :: rest) (h : step s = .next t)
    (ht : t.cart = some ⟨img', .m1 r'⟩) :
    let isPort := dirOf tw = .store ∧ spaceOf tw = .prg ∧ 0x8000 ≤ (addrOf tw).toNat
    (isPort ∧ 0x80 ≤ (valOf tw).toNat ∧ r' = serialReset r) ∨
    (isPort ∧ ¬ 0x80 ≤ (valOf tw).toNat ∧ ∃ d, r' = serialShift r d (valOf tw)) ∨
    (¬ isPort ∧ ∃ m, r' = { r with chrRam := m }) := by
  rw [step_word hp (liveVariant_m1 hlive.2)] at h
  obtain ⟨img₀, r₀, ⟨-, hc⟩, hcases⟩ := m1_next h
  obtain ⟨rfl, rfl⟩ : img = img₀ ∧ r = r₀ := by simpa using hlive.2.symm.trans hc
  rcases hcases with ⟨hd, b, tgt, rfl⟩ | ⟨hd, hother, rfl⟩ | ⟨hd, hsp, ha, hval, tgt, rfl⟩ |
    ⟨hd, hsp, ha, hval, d, rfl⟩ | ⟨hd, hsp, ha, rfl⟩
  · cases hc.symm.trans ht
    exact .inr (.inr ⟨fun hport => by simp [hd] at hport, r.chrRam, rfl⟩)
  · cases hc.symm.trans ht
    exact .inr (.inr ⟨fun hport => hother hport.2, r.chrRam, rfl⟩)
  · cases ht
    exact .inl ⟨⟨hd, hsp, ha⟩, (getLsbD_seven_iff _).1 hval, rfl⟩
  · cases ht
    have hlow : ¬ 0x80 ≤ (valOf tw).toNat := (getLsbD_seven_iff _).not.1 (Bool.eq_false_iff.1 hval)
    exact .inr (.inl ⟨⟨hd, hsp, ha⟩, hlow, d, rfl⟩)
  · cases ht
    exact .inr (.inr ⟨fun hport => by simp [hsp] at hport, _, rfl⟩)

/-! ### Stores and constructions keep the invariant -/

theorem chipInv_storeTo {id : Nat} {chip : Chip} (h : chipInv id chip = true) {tgt : Target}
    (hoff : ∀ st off, tgt = .ram st off → off < size8K) (val : Byte) : chipInv id (storeTo chip tgt val) = true := by
  unfold storeTo
  split <;> simp only [chipInv, Bool.and_eq_true, M1Regs.inv_iff] at h ⊢
  · split
    · exact ⟨h.1, serialReset_inv h.2⟩
    · exact ⟨h.1, serialShift_inv h.2 ..⟩
  · obtain ⟨hid, hr⟩ := h
    exact ⟨hid, { hr with chrRam := ramOk_write val (hoff _ _ rfl) hr.chrRam }⟩
  · exact ⟨h.1, ramOk_write val (hoff _ _ rfl) h.2⟩
  · exact h
  · exact ⟨h.1, by simpa [M4Regs.inv] using h.2⟩
  · exact h

/-- Each chip of the factory meets its invariant. -/
theorem chipInv_chipOf {id : Nat} {chip : Chip} (h : chipOf id = some chip) : chipInv id chip = true := by
  unfold chipOf at h
  split_ifs at h with h0 h1 h4 <;> cases h
  · exact decide_eq_true h0
  · rw [h1]; decide
  · rw [h4]; decide

theorem step_word_keeps_inv {s t : State} {tw : TxWord} {rest : List Presented} (hp : s.pending = .word tw :: rest)
    (hinv : s.inv = true) (h : step s = .next t) : t.inv = true := by
  obtain ⟨hf, hcart⟩ := State.inv_iff.1 hinv
  obtain ⟨-, c, hc, ⟨-, tgt, b, -, -, rfl⟩ | ⟨-, tgt, htgt, rfl⟩⟩ := step_word_cases hp h
  · exact State.inv_iff.2 ⟨hf, hcart⟩
  · obtain ⟨hcinv, herr⟩ := hcart c hc
    obtain ⟨hcanon, hlen, hchip⟩ := Cart.inv_iff.1 hcinv
    have hoff (st : PhysStore) (off : Nat) (hram : tgt = .ram st off) := storeTarget_ram_lt (htgt.symm.trans hram)
    refine State.inv_iff.2 ⟨hf, fun c' hc' => ?_⟩
    cases hc'
    exact ⟨Cart.inv_iff.2 ⟨hcanon, hlen, chipInv_storeTo hchip hoff _⟩, herr⟩

/-- Everything a construction can do: it builds the chip of the id, or records that the id has none. -/
theorem exec_construct_cases {img : RomImage} {s t : State} (h : exec (.construct img) s = .next t) :
    img.canonical = true ∧ img.lengthOk = true ∧
      ((∃ chip, chipOf img.mapperId = some chip ∧ t = { s with
          cart := some ⟨img, chip⟩, fault := none, constructErr := none, out := none, target := none, req := none }) ∨
       (chipOf img.mapperId = none ∧ t = { s with
          cart := none, fault := none, constructErr := some (.unsupportedMapper img.mapperId), out := none
          target := none, req := none })) := by
  change execConstruct img s = _ at h
  unfold execConstruct at h
  split at h
  · obtain ⟨hcanon, hlen⟩ := Bool.and_eq_true_iff.1 ‹_›
    refine ⟨hcanon, hlen, ?_⟩
    split at h
    · cases h
      exact .inl ⟨_, ‹_›, rfl⟩
    · cases h
      exact .inr ⟨‹_›, rfl⟩
  · cases h

theorem exec_construct_meets_inv {img : RomImage} {s t : State} (h : exec (.construct img) s = .next t) :
    t.inv = true := by
  obtain ⟨hcanon, hlen, ⟨chip, hchip, rfl⟩ | ⟨-, rfl⟩⟩ := exec_construct_cases h
  · refine State.inv_iff.2 ⟨rfl, fun c hc => ?_⟩
    cases hc
    exact ⟨Cart.inv_iff.2 ⟨hcanon, hlen, chipInv_chipOf hchip⟩, rfl⟩
  · exact State.inv_iff.2 ⟨rfl, nofun⟩

/-! ### The obligations -/

/-- Settles O11: a transaction keeps the invariant, and a construction establishes it. -/
theorem stepKeepsTheInvariant : Obligations.StepKeepsTheInvariant := by
  intro s t hinv h
  obtain ⟨p, rest, i, hp, hd, hexec⟩ := step_next h
  cases p with
  | word tw => exact step_word_keeps_inv hp hinv h
  | construct img =>
    obtain rfl : Instr.construct img = i := by simpa [decode] using hd
    exact exec_construct_meets_inv hexec

/-- Settles O12: a reset write and a commit clear the serial state, a shift counts on, and every other transaction leaves
the four registers and the serial state alone. -/
theorem serialSequenceNeverGoesBack : Obligations.SerialSequenceNeverGoesBack := by
  intro s t img img' r r' tw rest isPort endsSequence hlive hinv hp hstep ht hport hends
  have hr := M1Regs.inv_iff.1 hinv
  rcases step_word_m1 hlive hp hstep ht with ⟨hwrite, hval, rfl⟩ | ⟨hwrite, hval, d, rfl⟩ | ⟨hother, m, rfl⟩
  · obtain ⟨hcount, haccum, hctrl, hchr0, hchr1, hprg⟩ := (serialReset_inv hr).bounds
    obtain rfl := hport.2 hwrite
    obtain rfl := hends.2 ⟨rfl, .inl hval⟩
    exact ⟨hcount, haccum, hctrl, hchr0, hchr1, hprg, ⟨rfl, rfl⟩, nofun⟩
  · obtain ⟨hcount, haccum, hctrl, hchr0, hchr1, hprg⟩ := (serialShift_inv hr d (valOf tw)).bounds
    obtain rfl := hport.2 hwrite
    refine ⟨hcount, haccum, hctrl, hchr0, hchr1, hprg, ?_, nofun⟩
    split
    · obtain ⟨-, hend⟩ := hends.1 ‹_›
      exact serialShift_commit (hend.resolve_left hval) d _
    · exact serialShift_counts hr (fun hfifth => ‹¬ endsSequence = true› (hends.2 ⟨rfl, .inr hfifth⟩)) d _
  · obtain ⟨hcount, haccum, hctrl, hchr0, hchr1, hprg⟩ := hr.bounds
    have hnotPort : ¬ isPort = true := fun h => hother (hport.1 h)
    have hnotEnd : ¬ endsSequence = true := fun h => hnotPort (hends.1 h).1
    rw [if_neg hnotEnd]
    exact ⟨hcount, haccum, hctrl, hchr0, hchr1, hprg, ⟨Nat.le_refl _, Nat.le_refl _⟩,
      fun _ => ⟨rfl, rfl, rfl, rfl, rfl, rfl⟩⟩

/-- Settles O10: it holds no chip and no fault. -/
theorem resetMeetsTheInvariant : Obligations.ResetMeetsTheInvariant := State.inv_iff.2 ⟨rfl, nofun⟩

end Sys2Proof.Machine
end

section
/-! PROOFS. Loads of M0 and M1 by window, and M1's CHR side (41_fixed_mapping.md, 42_shift_register_banking.md): O23, O24,
O25, O26, O28, O29, O36, O37 and O38. -/

namespace Sys2Proof.Machine

/-! ### Loads from the image -/

theorem loadFrom_prgRom {c : Cart} {s : State} {off : Nat} (h : off < c.image.prgLen) :
    loadFrom (.rom .prgRom off) c s = .next (s.loaded (.rom .prgRom off) (Memory.read c.image.prg off)) :=
  loadFrom_eq_next_iff.2 ⟨_, memRead_prgRom c h, rfl⟩

/-! ### The classes on a live M1 chip (R141 to R145) -/

section M1

variable {s : State} {img : RomImage} {r : M1Regs}

theorem exec_m1PldB8_of_live (h : s.liveM1 img r) (addr : Addr) :
    exec (.m1PldB8 addr) s = loadFrom (.rom .prgRom
      (prgOffset (m1BankLo (m1Mode r.ctrl) r.prgBank) size16K (low14 addr) img.prgLen)) ⟨img, .m1 r⟩ s :=
  (onM1_live h _).trans (m1PrgLoad_eq_loadFrom ..)

theorem exec_m1PldBC_of_live (h : s.liveM1 img r) (addr : Addr) :
    exec (.m1PldBC addr) s = loadFrom (.rom .prgRom
      (prgOffset (m1BankHi (m1Mode r.ctrl) r.prgBank img.prgBanks16) size16K (low14 addr) img.prgLen)) ⟨img, .m1 r⟩ s :=
  (onM1_live h _).trans (m1PrgLoad_eq_loadFrom ..)

end M1

/-- The three modes by the field's number (R25). -/
theorem m1Mode_eq (ctrl : Byte) :
    m1Mode ctrl = if ctrl.toNat / 4 % 4 < 2 then .switch32k else if ctrl.toNat / 4 % 4 = 2 then .fixFirst else .fixLast := by
  have hlt : ctrl.toNat / 4 % 4 < 4 := Nat.mod_lt _ (by decide)
  rw [m1Mode, ctrlPrgMode_toNat]
  generalize ctrl.toNat / 4 % 4 = mode at hlt
  interval_cases mode <;> rfl

theorem and_0xFE_toNat (b : Byte) : (b &&& 0xFE).toNat = b.toNat / 2 * 2 := by
  revert b; decide

theorem and_0xFE_or_one_toNat (b : Byte) : ((b &&& 0xFE) ||| 1).toNat = b.toNat / 2 * 2 + 1 := by
  revert b; decide

theorem m1BankLo_eq (ctrl prgBank : Byte) :
    m1BankLo (m1Mode ctrl) prgBank =
      if ctrl.toNat / 4 % 4 < 2 then prgBank.toNat / 2 * 2 else if ctrl.toNat / 4 % 4 = 2 then 0 else prgBank.toNat := by
  rw [m1Mode_eq, ← and_0xFE_toNat]
  split_ifs <;> rfl

theorem m1BankHi_eq (ctrl prgBank : Byte) (banks16 : Nat) :
    m1BankHi (m1Mode ctrl) prgBank banks16 =
      if ctrl.toNat / 4 % 4 < 2 then prgBank.toNat / 2 * 2 + 1
      else if ctrl.toNat / 4 % 4 = 2 then prgBank.toNat else banks16 - 1 := by
  rw [m1Mode_eq, ← and_0xFE_or_one_toNat]
  split_ifs <;> rfl

/-! ### The obligations -/

/-- Settles O28: the class loads the bank of `bank_lo`, at an offset reduced modulo the image's length. -/
theorem m1LowWindowShowsItsBank : Obligations.M1LowWindowShowsItsBank := by
  rintro s img r addr hlive hlen bank off rfl rfl
  have hlt (off : Nat) := Nat.mod_lt off (prgLen_pos_of_lengthOk hlen)
  rw [exec_m1PldB8_of_live hlive, m1BankLo_eq, low14_eq, prgOffset]
  exact ⟨hlt _, loadFrom_prgRom (hlt _)⟩

/-- Settles O29: the class loads the bank of `bank_hi`, at an offset reduced modulo the image's length. -/
theorem m1HighWindowShowsItsBank : Obligations.M1HighWindowShowsItsBank := by
  rintro s img r addr hlive hlen bank off rfl rfl
  have hlt (off : Nat) := Nat.mod_lt off (prgLen_pos_of_lengthOk hlen)
  rw [exec_m1PldBC_of_live hlive, m1BankHi_eq, low14_eq, prgOffset]
  exact ⟨hlt _, loadFrom_prgRom (hlt _)⟩

/-- Settles O37: the load after the store reads the written RAM, where only the byte at the stored address is new. -/
theorem m1ChrRamReadsBack : Obligations.M1ChrRamReadsBack := by
  intro s t img r addr addr' val hlive hram haddr haddr' hstore
  obtain ⟨tgt, chrRam, hst, hsame, hother⟩ := m1ChrStoreSetsOneByte s img r addr val hlive hram haddr
  have hlive' : t.liveM1 img { r with chrRam := chrRam } :=
    Host.Outcome.next.inj (hst.symm.trans hstore) ▸ ⟨hlive.1, rfl⟩
  obtain ⟨tgt₁, hafter⟩ := m1ChrLoadReadsRam t img _ addr' hlive' haddr'
  obtain ⟨tgt₂, hbefore⟩ := m1ChrLoadReadsRam s img r addr' hlive haddr'
  refine ⟨_, _, hafter, hbefore, ?_⟩
  split
  · subst addr'
    exact congrArg some hsame
  · exact congrArg some (hother _ fun heq => ‹¬ addr' = addr› (BitVec.eq_of_toNat_eq heq))

/-- Settles O25: with 16 KB the mask is 0x3FFF, under which both addresses fold to `k`. -/
theorem m0SmallImageIsMirrored : Obligations.M0SmallImageIsMirrored := by
  intro s img k hlive hlen hk
  have hload (base : Nat) (hbase : base % 16384 = 0) (hlt : base + k < 2 ^ 16) :
      exec (.m0PldRom (BitVec.ofNat 16 (base + k))) s = .next (s.loaded (.rom .prgRom k) (Memory.read img.prg k)) := by
    have hoff : m0PrgOffset (BitVec.ofNat 16 (base + k)) img.prgLen = k := by
      rw [m0PrgOffset_eq, if_neg (by omega), BitVec.toNat_ofNat]
      omega
    rw [exec_m0PldRom_of_live hlive, hoff]
    exact loadRom_of_read (memRead_prgRom ⟨img, .m0⟩ (hk.trans_eq hlen.symm))
  exact ⟨_, _, hload 0x8000 rfl (by omega), hload 0xC000 rfl (by omega), rfl, rfl⟩

/-- Settles O26: no store of M0 has a target, and the target of a load and its byte depend on the image and the address. -/
theorem m0TransactionsAreStateIndependent : Obligations.M0TransactionsAreStateIndependent := by
  intro s s' t t' img tw rest rest' hlive hlive' hp hp' h h'
  cases hd : dirOf tw with
  | load =>
    obtain ⟨b, hb, rfl⟩ := loadFrom_eq_next_iff.1 ((step_load hlive.1 hlive.2 hp hd).symm.trans h)
    obtain ⟨b', hb', rfl⟩ := loadFrom_eq_next_iff.1 ((step_load hlive'.1 hlive'.2 hp' hd).symm.trans h')
    rw [loadTarget_m0] at hb hb'
    exact ⟨rfl, hb.symm.trans hb'⟩
  | store =>
    obtain rfl := Host.Outcome.next.inj ((step_store hlive.1 hlive.2 hp hd).symm.trans h)
    obtain rfl := Host.Outcome.next.inj ((step_store hlive'.1 hlive'.2 hp' hd).symm.trans h')
    exact ⟨hlive.2.symm, rfl⟩

/-- Settles O23: both classes load CHR-ROM at the raw address. -/
theorem chrRomIsReadByRawAddress : Obligations.ChrRomIsReadByRawAddress :=
  fun _ _ _ _ => ⟨fun hlive => onM0_live hlive _, fun hlive => onM4_live hlive _⟩

/-- Settles O24: the three rows of each chip run the load of the out-of-window default. -/
theorem chrLoadAbove2000ReadsZero : Obligations.ChrLoadAbove2000ReadsZero := by
  intro s img r1 r4 addr
  refine ⟨fun hlive => ?m0, fun hlive => ?m1, fun hlive => ?m4⟩
  all_goals simp only [List.forall_mem_cons]
  case m0 => exact ⟨onM0_live hlive _, onM0_live hlive _, onM0_live hlive _, nofun⟩
  case m1 => exact ⟨onM1_live hlive _, onM1_live hlive _, onM1_live hlive _, nofun⟩
  case m4 => exact ⟨onM4_live hlive _, onM4_live hlive _, onM4_live hlive _, nofun⟩

/-- Settles O36: the three rows run the ignored store. -/
theorem m1ChrStoreAbove2000DoesNothing : Obligations.M1ChrStoreAbove2000DoesNothing := by
  intro s img r addr val hlive
  simp only [List.forall_mem_cons]
  exact ⟨onM1_live hlive _, onM1_live hlive _, onM1_live hlive _, nofun⟩

/-- Settles O38: the port reads the mirroring field of a live M1 chip only. -/
theorem mirroringFollowsCtrl : Obligations.MirroringFollowsCtrl := by
  intro s img r1 r4
  refine ⟨fun hcart => ?_, fun hcart => ?_, fun hcart => ?_⟩
  · have hfield : ctrlMirroring r1.ctrl = BitVec.ofNat 2 r1.ctrl.toNat :=
      BitVec.eq_of_toNat_eq (by simp [ctrlMirroring])
    simp [portMirroring, hcart, hfield]
  · simp [portMirroring, hcart]
  · simp [portMirroring, hcart]

end Sys2Proof.Machine
end

section
/-! PROOFS. PRG loads of M4 by window (43_indexed_banking.md): the mode bit, the fixed banks, and O42, O43, O44, O49 and
O50. -/

namespace Sys2Proof.Machine

/-! ### The mode bit (R177) -/

theorem getLsbD_six_iff (b : Byte) : b.getLsbD 6 = true ↔ ¬ b.toNat / 64 % 2 = 0 := by
  revert b; decide

theorem swap8000_iff (cfg : Config) (bs : Byte) :
    swap8000 cfg bs = true ↔ (bs.toNat / 64 % 2 = 0 ↔ cfg.m4ModePolarity = .zeroIs8000) := by
  unfold swap8000
  cases cfg.m4ModePolarity with
  | zeroIs8000 => rw [Bool.not_eq_true', ← Bool.not_eq_true, getLsbD_six_iff]; simp
  | zeroIsC000 => rw [getLsbD_six_iff]; simp

/-- Flipping bit 6 changes the mode, under either polarity. -/
theorem swap8000_xor (cfg : Config) (bs : Byte) : swap8000 cfg (bs ^^^ 0x40) = !swap8000 cfg bs := by
  unfold swap8000
  cases cfg.m4ModePolarity <;> simp

theorem m4BankW8_not (swap : Bool) (prgBank0 : Byte) (banks8 : Nat) :
    m4BankW8 (!swap) prgBank0 banks8 = m4BankWC swap prgBank0 banks8 := by
  cases swap <;> rfl

theorem m4BankWC_not (swap : Bool) (prgBank0 : Byte) (banks8 : Nat) :
    m4BankWC (!swap) prgBank0 banks8 = m4BankW8 swap prgBank0 banks8 := by
  cases swap <;> rfl

/-! ### Offsets -/

/-- The second-to-last 8 KB bank begins 16 KB before the end of the image (decision D7). -/
theorem prgOffset_secondToLast {img : RomImage} (h : img.lengthOk = true) (a : Addr) :
    prgOffset (img.prgBanks8 - 2) size8K (low13 a) img.prgLen = img.prgLen - 16384 + a.toNat % 8192 := by
  obtain ⟨hpos, hbanks, -⟩ := (lengthOk_iff img).1 h
  have hstart : (img.prgBanks8 - 2) * size8K = img.prgLen - 16384 := by
    simp only [RomImage.prgBanks8, size8K]
    omega
  rw [prgOffset, hstart, low13_eq, Nat.mod_eq_of_lt (by omega)]

/-- An address is its 8 KB window's base and the offset in the window. -/
theorem low13_ofNat_add {base k : Nat} (hbase : base % 8192 = 0) (hk : k < 0x2000) :
    low13 (BitVec.ofNat 16 (base + k)) = k := by
  rw [low13_eq, BitVec.toNat_ofNat]
  omega

/-! ### The classes on a live M4 chip (R173 to R177) -/

section Classes

variable {s : State} {img : RomImage} {r : M4Regs}

theorem exec_m4PldW8_of_live (h : s.liveM4 img r) (addr : Addr) :
    exec (.m4PldW8 addr) s = loadFrom (.rom .prgRom
      (prgOffset (m4BankW8 (swap8000 s.config r.bankSelect) r.prgBank0 img.prgBanks8) size8K (low13 addr) img.prgLen))
      ⟨img, .m4 r⟩ s := onM4_live h _

theorem exec_m4PldWA_of_live (h : s.liveM4 img r) (addr : Addr) :
    exec (.m4PldWA addr) s =
      loadFrom (.rom .prgRom (prgOffset r.prgBank1.toNat size8K (low13 addr) img.prgLen)) ⟨img, .m4 r⟩ s := onM4_live h _

theorem exec_m4PldWC_of_live (h : s.liveM4 img r) (addr : Addr) :
    exec (.m4PldWC addr) s = loadFrom (.rom .prgRom
      (prgOffset (m4BankWC (swap8000 s.config r.bankSelect) r.prgBank0 img.prgBanks8) size8K (low13 addr) img.prgLen))
      ⟨img, .m4 r⟩ s := onM4_live h _

theorem exec_m4PldWE_of_live (h : s.liveM4 img r) (hlen : img.lengthOk = true) (addr : Addr) :
    exec (.m4PldWE addr) s = loadFrom (.rom .prgRom (img.prgLen - 8192 + low13 addr)) ⟨img, .m4 r⟩ s := by
  rw [← lastBank8_offset hlen]
  exact onM4_live h _

end Classes

theorem lastBank8_offset_lt {img : RomImage} (h : img.lengthOk = true) (a : Addr) :
    img.prgLen - 8192 + low13 a < img.prgLen := by
  have hlen := prgLen_ge_of_lengthOk h
  rw [low13_eq]
  omega

/-! ### The obligations -/

/-- Settles O42: the mode bit and the polarity decide which of the two windows shows `prg_banks[0]`. -/
theorem m4SwappableWindowsByMode : Obligations.M4SwappableWindowsByMode := by
  rintro s img r addr swapped b8 bC o8 oC hlive hlen hswapped rfl rfl rfl rfl
  have hlt (off : Nat) := Nat.mod_lt off (prgLen_pos_of_lengthOk hlen)
  have hswap : swap8000 s.config r.bankSelect = swapped := Bool.eq_iff_iff.2 ((swap8000_iff ..).trans hswapped.symm)
  rw [exec_m4PldW8_of_live hlive, exec_m4PldWC_of_live hlive, hswap, low13_eq]
  exact ⟨loadFrom_prgRom (hlt _), loadFrom_prgRom (hlt _)⟩

/-- Settles O43: the class loads `prg_banks[1]`, whatever the mode. -/
theorem m4WindowAShowsPrgBank1 : Obligations.M4WindowAShowsPrgBank1 := by
  rintro s img r addr off hlive hlen rfl
  rw [exec_m4PldWA_of_live hlive, low13_eq]
  exact loadFrom_prgRom (Nat.mod_lt _ (prgLen_pos_of_lengthOk hlen))

/-- Settles O44: the class loads the last 8 KB of the image. -/
theorem m4WindowEShowsTheLastBank : Obligations.M4WindowEShowsTheLastBank := by
  rintro s img r addr off hlive hlen rfl
  rw [exec_m4PldWE_of_live hlive hlen, ← low13_eq]
  exact ⟨lastBank8_offset_lt hlen addr, loadFrom_prgRom (lastBank8_offset_lt hlen addr)⟩

/-- Settles O49: bit 6 says which of the two windows shows the second-to-last bank. -/
theorem m4FixedBankLaws : Obligations.M4FixedBankLaws := by
  intro s img r addr hlive hlen hpol
  have hswap : swap8000 s.config r.bankSelect = !r.bankSelect.getLsbD 6 := by rw [swap8000, hpol]
  have hsecond : ∃ t, loadFrom (.rom .prgRom (prgOffset (img.prgBanks8 - 2) size8K (low13 addr) img.prgLen))
      ⟨img, .m4 r⟩ s = .next t ∧ t.out = some (Memory.read img.prg (img.prgLen - 16384 + addr.toNat % 8192)) :=
    ⟨_, loadFrom_prgRom (prgOffset_lt (prgLen_pos_of_lengthOk hlen) ..), by rw [prgOffset_secondToLast hlen]⟩
  refine ⟨?_, _, (m4WindowEShowsTheLastBank s img r addr _ hlive hlen rfl).2, rfl⟩
  cases hbit : r.bankSelect.getLsbD 6 with
  | true =>
    rw [if_pos rfl, exec_m4PldW8_of_live hlive, hswap, hbit]
    exact hsecond
  | false =>
    rw [if_neg Bool.false_ne_true, exec_m4PldWC_of_live hlive, hswap, hbit]
    exact hsecond

/-- Settles O50: with the mode each of the two windows shows what the other showed; the others do not look at it. -/
theorem m4ModeBitSwapsTwoWindows : Obligations.M4ModeBitSwapsTwoWindows := by
  rintro s s' img r k hlive hlen hk hs'
  have hlive' : s'.liveM4 img { r with bankSelect := r.bankSelect ^^^ 0x40 } := hs' ▸ ⟨hlive.1, rfl⟩
  have hconfig : s'.config = s.config := hs' ▸ rfl
  have hpos := prgLen_pos_of_lengthOk hlen
  have hwindow (base : Nat) (hbase : base % 8192 = 0) : low13 (BitVec.ofNat 16 (base + k)) = k :=
    low13_ofNat_add hbase hk
  have hsame {i j : Instr} {off : Nat} (hoff : off < img.prgLen)
      (hi : exec i s' = loadFrom (.rom .prgRom off) ⟨img, .m4 { r with bankSelect := r.bankSelect ^^^ 0x40 }⟩ s')
      (hj : exec j s = loadFrom (.rom .prgRom off) ⟨img, .m4 r⟩ s) :
      ∃ t t' b, exec i s' = .next t' ∧ exec j s = .next t ∧ t.out = some b ∧ t'.out = some b :=
    ⟨_, _, _, hi.trans (loadFrom_prgRom hoff), hj.trans (loadFrom_prgRom hoff), rfl, rfl⟩
  have h8' := exec_m4PldW8_of_live hlive' (BitVec.ofNat 16 (0x8000 + k))
  have hC' := exec_m4PldWC_of_live hlive' (BitVec.ofNat 16 (0xC000 + k))
  have h8 := exec_m4PldW8_of_live hlive (BitVec.ofNat 16 (0x8000 + k))
  have hC := exec_m4PldWC_of_live hlive (BitVec.ofNat 16 (0xC000 + k))
  rw [hwindow _ rfl, hconfig, swap8000_xor] at h8' hC'
  rw [hwindow _ rfl] at h8 hC
  rw [m4BankW8_not] at h8'
  rw [m4BankWC_not] at hC'
  have hA' := exec_m4PldWA_of_live hlive' (BitVec.ofNat 16 (0xA000 + k))
  have hA := exec_m4PldWA_of_live hlive (BitVec.ofNat 16 (0xA000 + k))
  have hE' := exec_m4PldWE_of_live hlive' hlen (BitVec.ofNat 16 (0xE000 + k))
  have hE := exec_m4PldWE_of_live hlive hlen (BitVec.ofNat 16 (0xE000 + k))
  have hpairs := And.intro (hsame (prgOffset_lt hpos ..) h8' hC) (And.intro (hsame (prgOffset_lt hpos ..) hC' h8)
    (And.intro (hsame (prgOffset_lt hpos ..) hA' hA) (hsame (lastBank8_offset_lt hlen _) hE' hE)))
  simpa only [List.forall_mem_cons, List.not_mem_nil, false_imp_iff, implies_true, and_true] using hpairs

end Sys2Proof.Machine
end

section
/-! PROOFS. Construction and the fatal errors (70_reset_and_hazards.md section 1, 60_exceptions.md): O14, O15, O16, O17,
O18 and O19. -/

namespace Sys2Proof.Machine

/-! ### CONSTRUCT (R230 to R236) -/

theorem chipOf_eq_none {id : Nat} (h0 : id ≠ 0) (h1 : id ≠ 1) (h4 : id ≠ 4) : chipOf id = none := by
  rw [chipOf, if_neg h0, if_neg h1, if_neg h4]

/-- An accepted image of another id is recorded as unsupported. -/
theorem exec_construct_of_chipOf_eq_none {img : RomImage} (hcanon : img.canonical = true) (hlen : img.lengthOk = true)
    (hchip : chipOf img.mapperId = none) (s : State) :
    exec (.construct img) s = raise (.unsupportedMapper img.mapperId) s := by
  have haccept : (img.canonical && img.lengthOk) = true := Bool.and_eq_true_iff.2 ⟨hcanon, hlen⟩
  change execConstruct img s = _
  rw [execConstruct, if_pos haccept, hchip]

/-- An image is refused exactly when construction does not accept it (R235, log entry 6). -/
theorem exec_construct_refused_iff {img : RomImage} {s : State} :
    exec (.construct img) s = .refused .malformedImage ↔ ¬ (img.canonical = true ∧ img.lengthOk = true) := by
  change execConstruct img s = _ ↔ _
  rw [← Bool.and_eq_true_iff, execConstruct]
  constructor
  · intro h haccept
    rw [if_pos haccept] at h
    split at h <;> cases h
  · exact fun h => if_neg h

theorem lengthOk_eq_false_iff (img : RomImage) :
    ¬ img.lengthOk = true ↔
      img.prgLen = 0 ∨ img.prgLen % 16384 ≠ 0 ∨ ∃ n, img.headerBanks = some n ∧ n ≠ img.prgLen / 16384 := by
  rw [lengthOk_iff, not_and_or, not_and_or, Nat.pos_iff_ne_zero, not_not, not_forall]
  simp only [Classical.not_imp, ne_eq]

/-! ### Loads right after construction (R238) -/

theorem construct_m1 {img : RomImage} {s t : State} (hcanon : img.canonical = true) (hlen : img.lengthOk = true)
    (hid : img.mapperId = 1) (h : exec (.construct img) s = .next t) : t.liveM1 img m1Reset := by
  obtain rfl := Host.Outcome.next.inj ((exec_construct_of_chipOf hcanon hlen (hid ▸ chipOf_one) s).symm.trans h)
  exact ⟨rfl, rfl⟩

theorem construct_m4 {img : RomImage} {s t : State} (hcanon : img.canonical = true) (hlen : img.lengthOk = true)
    (hid : img.mapperId = 4) (h : exec (.construct img) s = .next t) : t.liveM4 img m4Reset ∧ t.config = s.config := by
  obtain rfl := Host.Outcome.next.inj ((exec_construct_of_chipOf hcanon hlen (hid ▸ chipOf_four) s).symm.trans h)
  exact ⟨⟨rfl, rfl⟩, rfl⟩

/-! ### The obligations -/

/-- Settles O16: CONSTRUCT reads the configuration and what is presented next only, and writes every other field. -/
theorem reconstructionCarriesNothingOver : Obligations.ReconstructionCarriesNothingOver := by
  intro img s t hconfig hpending
  constructor
  · change execConstruct img s = execConstruct img t
    simp only [execConstruct, raise, hconfig, hpending]
  · intro u h
    obtain ⟨-, -, ⟨chip, -, rfl⟩ | ⟨-, rfl⟩⟩ := exec_construct_cases h
    · exact ⟨rfl, rfl, rfl, rfl, rfl, rfl, rfl⟩
    · exact ⟨rfl, rfl, rfl, rfl, rfl, rfl, rfl⟩

/-- Settles O18: the reset chip is in fix-last mode with bank 0, so the low window shows the first and the high window the
last 16 KB, and CHR-RAM lists no cell. -/
theorem m1LoadsAfterConstruction : Obligations.M1LoadsAfterConstruction := by
  intro img s t addr hcanon hlen hid h
  have hlive := construct_m1 hcanon hlen hid h
  obtain ⟨hpos, hbanks, -⟩ := (lengthOk_iff img).1 hlen
  refine ⟨?low, ?high, fun haddr => ?chr⟩
  case low =>
    have hbank : (0 * 16384 + addr.toNat % 16384) % img.prgLen = addr.toNat % 16384 := by
      rw [Nat.mod_eq_of_lt (by omega)]
      omega
    exact ⟨_, (m1LowWindowShowsItsBank t img m1Reset addr hlive hlen 0 _ rfl hbank.symm).2, rfl⟩
  case high =>
    have hbank : ((img.prgLen / 16384 - 1) * 16384 + addr.toNat % 16384) % img.prgLen =
        img.prgLen - 16384 + addr.toNat % 16384 := by
      rw [Nat.mod_eq_of_lt (by omega)]
      omega
    exact ⟨_, (m1HighWindowShowsItsBank t img m1Reset addr hlive hlen _ _ rfl hbank.symm).2, rfl⟩
  case chr =>
    obtain ⟨tgt, hload⟩ := m1ChrLoadReadsRam t img m1Reset addr hlive haddr
    exact ⟨_, hload, rfl⟩

/-- Settles O19: with every register 0 the two banked windows show bank 0, and the mode is swappable-at-8000. -/
theorem m4LoadsAfterConstruction : Obligations.M4LoadsAfterConstruction := by
  intro img s t addr hcanon hlen hid hpol h
  obtain ⟨hlive, hconfig⟩ := construct_m4 hcanon hlen hid h
  have hpol' : t.config.m4ModePolarity = .zeroIs8000 := hconfig ▸ hpol
  have hbank : (0 * 8192 + addr.toNat % 8192) % img.prgLen = addr.toNat % 8192 := by
    have hge := prgLen_ge_of_lengthOk hlen
    rw [Nat.mod_eq_of_lt (by omega)]
    omega
  obtain ⟨tgt, hram⟩ := m4RamLoadReadsRam t img m4Reset addr hlive
  obtain ⟨hWC, hWE⟩ := m4FixedBankLaws t img m4Reset addr hlive hlen hpol'
  have hW8 := (m4SwappableWindowsByMode t img m4Reset addr true 0 _ _ _ hlive hlen (by simp [hpol', m4Reset]) rfl rfl
    hbank.symm rfl).1
  have hWA := m4WindowAShowsPrgBank1 t img m4Reset addr _ hlive hlen hbank.symm
  exact ⟨⟨_, hram, rfl⟩, ⟨_, hW8, rfl⟩, ⟨_, hWA, rfl⟩, hWC, hWE⟩

/-- Settles O14: the id is recorded and the chip is gone, so a word finds none. -/
theorem unsupportedMapperLeavesNoChip : Obligations.UnsupportedMapperLeavesNoChip := by
  intro img s hcanon hlen h0 h1 h4
  refine ⟨_, exec_construct_of_chipOf_eq_none hcanon hlen (chipOf_eq_none h0 h1 h4) s, rfl, rfl, fun tw rest => ?_⟩
  exact step_word_of_no_cart rfl rfl

/-- Settles O15: of the two conditions of acceptance a canonical image can break the one on its length only. -/
theorem malformedImageIsRefused : Obligations.MalformedImageIsRefused := by
  intro img s hcanon
  rw [exec_construct_refused_iff, ← lengthOk_eq_false_iff]
  simp only [hcanon, true_and]

/-- Settles O17: the record is all that is set, and a word after it is stuck. -/
theorem raisedUnreachableStateIsSticky : Obligations.RaisedUnreachableStateIsSticky :=
  fun _ _ _ _ hcart => ⟨rfl, rfl, fun _ _ => step_word_of_fault rfl hcart rfl⟩

end Sys2Proof.Machine
end

section
/-! PROOFS. The five-write law of M1 (42_shift_register_banking.md section 6): runs of the machine, what a qualifying write
and what any other transaction makes of M1, the five shifts, and O32 and O33. -/

namespace Sys2Proof.Machine

/-! ### Runs -/

/-- `k` steps lead from `s` to `t`. -/
def Runs (k : Nat) (s t : State) : Prop := Host.Core.run core k s = .next t

theorem Runs.succ_iff {s u : State} {k : Nat} : Runs (k + 1) s u ↔ ∃ t, step s = .next t ∧ Runs k t u := by
  have hcore : core.step s = step s := rfl
  cases h : step s <;> simp [Runs, Host.Core.run, hcore, h]

theorem Runs.of_step {s t : State} (h : step s = .next t) : Runs 1 s t := Runs.succ_iff.2 ⟨t, h, rfl⟩

theorem Runs.trans {s t u : State} {j k : Nat} (h : Runs j s t) (h' : Runs k t u) : Runs (j + k) s u := by
  induction j generalizing s with
  | zero =>
    obtain rfl : s = t := Host.Outcome.next.inj h
    rwa [Nat.zero_add]
  | succ j ih =>
    obtain ⟨s', hstep, hrun⟩ := Runs.succ_iff.1 h
    rw [Nat.succ_add]
    exact Runs.succ_iff.2 ⟨s', hstep, ih hrun⟩

/-! ### The transactions of a sequence -/

/-- M1 is live with the registers `r` but the CHR-RAM `m`, and `pending` is presented. -/
structure M1At (cfg : Config) (img : RomImage) (r : M1Regs) (m : Memory) (pending : List Presented) (s : State) : Prop where
  live : s.liveM1 img { r with chrRam := m }
  config : s.config = cfg
  pending : s.pending = pending

/-- CHR-RAM after a transaction: a CHR store below $2000 writes its byte at its address (R158). -/
def chrRamAfter (m : Memory) (tw : TxWord) : Memory :=
  if dirOf tw = .store ∧ spaceOf tw = .chr ∧ (addrOf tw).toNat < 0x2000
  then Memory.write m (addrOf tw).toNat (valOf tw) else m

/-- Another transaction between two writes of a sequence: no PRG store at or above $8000, and over an accepted image. -/
def Between (img : RomImage) (tw : TxWord) : Prop :=
  img.lengthOk = true ∧ ¬ (dirOf tw = .store ∧ spaceOf tw = .prg ∧ 0x8000 ≤ (addrOf tw).toNat)

section Sequence

variable {cfg : Config} {img : RomImage} {r : M1Regs} {m : Memory} {pending : List Presented} {s : State}

theorem M1At.write {a : Addr} {val : Byte} (h : M1At cfg img r m (pst a val :: pending) s) (ha : 0x8000 ≤ a.toNat)
    (hval : val.toNat < 0x80) :
    ∃ t, Runs 1 s t ∧ M1At cfg img (serialShift r (serialDest a) val) m pending t := by
  obtain ⟨⟨hf, hc⟩, hconfig, hp⟩ := h
  have hstep := step_store hf hc hp (dirOf_packTx ..)
  have hbit : ¬ val.getLsbD 7 = true := fun h => Nat.not_le.2 hval ((getLsbD_seven_iff val).1 h)
  rw [spaceOf_packTx, addrOf_packTx, valOf_packTx, storeOn, storeTo_m1_prg, serialWrite_with_chrRam, serialWrite,
    if_neg (Nat.not_lt.2 ha), if_neg hbit] at hstep
  exact ⟨_, Runs.of_step hstep, ⟨hf, rfl⟩, hconfig, rfl⟩

/-- A store that is no write of the sequence folds into CHR-RAM. -/
theorem storeTo_between {tw : TxWord}
    (hother : ¬ (dirOf tw = .store ∧ spaceOf tw = .prg ∧ 0x8000 ≤ (addrOf tw).toNat)) (hd : dirOf tw = .store) :
    storeTo (.m1 { r with chrRam := m }) (storeTarget (.m1 { r with chrRam := m }) (spaceOf tw) (addrOf tw)) (valOf tw) =
      .m1 { r with chrRam := chrRamAfter m tw } := by
  cases hsp : spaceOf tw with
  | prg =>
    have hlow : (addrOf tw).toNat < 0x8000 := Nat.not_le.1 fun ha => hother ⟨hd, hsp, ha⟩
    have hram : chrRamAfter m tw = m := if_neg (by simp [hsp])
    rw [hram, storeTo_m1_prg, serialWrite, if_pos hlow]
  | chr =>
    have hram : chrRamAfter m tw = chrRamWrite m (addrOf tw) (valOf tw) := by
      simp only [chrRamAfter, chrRamWrite, hd, hsp, true_and]
    rw [hram, storeTo_m1_chr]

theorem M1At.between {tw : TxWord} (h : M1At cfg img r m (.word tw :: pending) s) (htw : Between img tw) :
    ∃ t, Runs 1 s t ∧ M1At cfg img r (chrRamAfter m tw) pending t := by
  obtain ⟨⟨hf, hc⟩, hconfig, hp⟩ := h
  obtain ⟨hlen, hother⟩ := htw
  cases hd : dirOf tw with
  | load =>
    obtain ⟨b, hb⟩ :=
      targetByte_loadTarget (c := ⟨img, .m1 { r with chrRam := m }⟩) hlen s.config (spaceOf tw) (addrOf tw)
    have hstep := (step_load hf hc hp hd).trans (loadFrom_eq_next_iff.2 ⟨b, hb, rfl⟩)
    have hram : chrRamAfter m tw = m := if_neg (by simp [hd])
    exact ⟨_, Runs.of_step hstep, ⟨hf, by rw [hram]; exact hc⟩, hconfig, rfl⟩
  | store =>
    exact ⟨_, Runs.of_step (step_store hf hc hp hd),
      ⟨hf, congrArg (fun chip => some (Cart.mk img chip)) (storeTo_between hother hd)⟩, hconfig, rfl⟩

theorem M1At.betweens {l : List TxWord} (h : M1At cfg img r m (l.map .word ++ pending) s)
    (hl : ∀ tw ∈ l, Between img tw) :
    ∃ t, Runs l.length s t ∧ M1At cfg img r (l.foldl chrRamAfter m) pending t := by
  induction l generalizing s m with
  | nil => exact ⟨s, rfl, h⟩
  | cons tw l ih =>
    obtain ⟨htw, hl⟩ := List.forall_mem_cons.1 hl
    obtain ⟨s', hrun, hat⟩ := M1At.between h htw
    obtain ⟨t, hrest, ht⟩ := ih hat hl
    refine ⟨t, ?_, ht⟩
    rw [List.length_cons, Nat.add_comm]
    exact hrun.trans hrest

/-- A write of the sequence with the other transactions before it. -/
theorem M1At.betweens_write {l : List TxWord} {a : Addr} {val : Byte}
    (h : M1At cfg img r m (l.map .word ++ pst a val :: pending) s) (hl : ∀ tw ∈ l, Between img tw)
    (ha : 0x8000 ≤ a.toNat) (hval : val.toNat < 0x80) :
    ∃ t, Runs (l.length + 1) s t ∧
      M1At cfg img (serialShift r (serialDest a) val) (l.foldl chrRamAfter m) pending t := by
  obtain ⟨s', hrun, hat⟩ := M1At.betweens h hl
  obtain ⟨t, hwrite, ht⟩ := hat.write ha hval
  exact ⟨t, hrun.trans hwrite, ht⟩

end Sequence

/-! ### The five shifts (R148, R149, R162) -/

section FiveShifts

variable {v0 v1 v2 v3 v4 v : Byte}

/-- The five low bits, the first one lowest. -/
theorem shiftAccum_five
    (hv : v.toNat = v0.toNat % 2 + v1.toNat % 2 * 2 + v2.toNat % 2 * 4 + v3.toNat % 2 * 8 + v4.toNat % 2 * 16) :
    shiftAccum (shiftAccum (shiftAccum (shiftAccum (shiftAccum 0 v0 0) v1 1) v2 2) v3 3) v4 4 = v := by
  have hlt0 : (0 : Byte).toNat < 2 ^ (0 : BitVec 3).toNat := by decide
  have hlt1 := shiftAccum_lt (val := v0) (by decide) hlt0
  have hlt2 := shiftAccum_lt (val := v1) (count := 1) (by decide) hlt1
  have hlt3 := shiftAccum_lt (val := v2) (count := 2) (by decide) hlt2
  have hlt4 := shiftAccum_lt (val := v3) (count := 3) (by decide) hlt3
  refine BitVec.eq_of_toNat_eq ?_
  rw [shiftAccum_toNat (by decide) hlt4, shiftAccum_toNat (by decide) hlt3, shiftAccum_toNat (by decide) hlt2,
    shiftAccum_toNat (by decide) hlt1, shiftAccum_toNat (by decide) hlt0, hv]
  simp

/-- From an empty sequence five shifts commit the five low bits to the destination of the fifth. -/
theorem fiveShifts {r : M1Regs} (hcount : r.writeCount = 0) (haccum : r.accum = 0) (d0 d1 d2 d3 d4 : SerialDest)
    (hv : v.toNat = v0.toNat % 2 + v1.toNat % 2 * 2 + v2.toNat % 2 * 4 + v3.toNat % 2 * 8 + v4.toNat % 2 * 16) :
    serialShift (serialShift (serialShift (serialShift (serialShift r d0 v0) d1 v1) d2 v2) d3 v3) d4 v4 =
      writeDest r d4 v := by
  obtain ⟨ctrl, chrBank0, chrBank1, prgBank, accum, count, prgRam, chrRam⟩ := r
  obtain rfl : count = 0 := hcount
  obtain rfl : accum = 0 := haccum
  rw [← shiftAccum_five hv]
  cases d4 <;> rfl

end FiveShifts

/-- The register of an address's window replaced, as the statements write it. -/
theorem writeDest_serialDest {a : Addr} (ha : 0x8000 ≤ a.toNat) (r : M1Regs) (m : Memory) (v : Byte) :
    { writeDest r (serialDest a) v with chrRam := m } =
      if a.toNat < 0xA000 then { r with ctrl := v, chrRam := m }
      else if a.toNat < 0xC000 then { r with chrBank0 := v, chrRam := m }
      else if a.toNat < 0xE000 then { r with chrBank1 := v, chrRam := m }
      else { r with prgBank := v, chrRam := m } := by
  rw [serialDest_eq ha]
  split_ifs <;> rfl

/-- Five writes at or above $8000, each with other transactions before it. -/
theorem M1At.fiveWrites {cfg : Config} {img : RomImage} {r : M1Regs} {a0 a1 a2 a3 a4 : Addr} {v0 v1 v2 v3 v4 : Byte}
    {l0 l1 l2 l3 : List TxWord} {rest : List Presented} {s : State}
    (ha : ∀ a ∈ [a0, a1, a2, a3, a4], 0x8000 ≤ a.toNat) (hval : ∀ v ∈ [v0, v1, v2, v3, v4], v.toNat < 0x80)
    (hl : ∀ tw ∈ l0 ++ l1 ++ l2 ++ l3, Between img tw)
    (h : M1At cfg img r r.chrRam (pst a0 v0 :: (l0.map .word ++ pst a1 v1 :: (l1.map .word ++ pst a2 v2 ::
      (l2.map .word ++ pst a3 v3 :: (l3.map .word ++ pst a4 v4 :: rest))))) s) :
    ∃ t, Runs (l0.length + l1.length + l2.length + l3.length + 5) s t ∧
      M1At cfg img (serialShift (serialShift (serialShift (serialShift (serialShift r (serialDest a0) v0)
        (serialDest a1) v1) (serialDest a2) v2) (serialDest a3) v3) (serialDest a4) v4)
        ((l0 ++ l1 ++ l2 ++ l3).foldl chrRamAfter r.chrRam) rest t := by
  simp only [List.forall_mem_cons, List.forall_mem_append] at ha hval hl
  obtain ⟨ha0, ha1, ha2, ha3, ha4, -⟩ := ha
  obtain ⟨hv0, hv1, hv2, hv3, hv4, -⟩ := hval
  obtain ⟨⟨⟨hl0, hl1⟩, hl2⟩, hl3⟩ := hl
  obtain ⟨t0, hrun0, hat0⟩ := h.write ha0 hv0
  obtain ⟨t1, hrun1, hat1⟩ := hat0.betweens_write hl0 ha1 hv1
  obtain ⟨t2, hrun2, hat2⟩ := hat1.betweens_write hl1 ha2 hv2
  obtain ⟨t3, hrun3, hat3⟩ := hat2.betweens_write hl2 ha3 hv3
  obtain ⟨t4, hrun4, hat4⟩ := hat3.betweens_write hl3 ha4 hv4
  have hrun := (((hrun0.trans hrun1).trans hrun2).trans hrun3).trans hrun4
  have hsteps : l0.length + l1.length + l2.length + l3.length + 5 =
      1 + (l0.length + 1) + (l1.length + 1) + (l2.length + 1) + (l3.length + 1) := by omega
  simp only [← List.foldl_append] at hat4
  exact ⟨t4, hsteps ▸ hrun, hat4⟩

/-! ### The obligations -/

/-- Settles O32: the five-write law with nothing between the writes. -/
theorem m1FiveWriteLaw : Obligations.M1FiveWriteLaw := by
  intro s img r a0 a1 a2 a3 a4 v0 v1 v2 v3 v4 rest hlive hcount haccum ha hval hp
  obtain ⟨t, hrun, ⟨hf, hc⟩, hconfig, hpending⟩ :=
    M1At.fiveWrites (l0 := []) (l1 := []) (l2 := []) (l3 := []) ha hval nofun ⟨hlive, rfl, hp⟩
  refine ⟨t, hrun, hpending, hf, hconfig, fun v hv => ?_⟩
  rw [hc, fiveShifts hcount haccum _ _ _ _ _ hv, writeDest_serialDest (ha a4 (by simp))]
  rfl

/-- Settles O33: the transactions between the writes leave the registers alone and fold into CHR-RAM. -/
theorem m1FiveWriteLawAcrossOtherTransactions : Obligations.M1FiveWriteLawAcrossOtherTransactions := by
  rintro s img r a0 a1 a2 a3 a4 v0 v1 v2 v3 v4 v l0 l1 l2 l3 rest chrRam hlive hlen hcount haccum ha hval hl hp hv rfl
  obtain ⟨t, hrun, ⟨hf, hc⟩, hconfig, hpending⟩ :=
    M1At.fiveWrites ha hval (fun tw htw => ⟨hlen, hl tw htw⟩) ⟨hlive, rfl, hp⟩
  refine ⟨t, hrun, hpending, hf, hconfig, ?_⟩
  rw [hc, fiveShifts hcount haccum _ _ _ _ _ hv, writeDest_serialDest (ha a4 (by simp))]
  rfl

end Sys2Proof.Machine
end

section
/-! PROOFS. Frames and whole-machine rules (10_state.md, 20_memory.md): what a transaction makes of the chip and what it
returns, as functions of the chip and the word, and O51 to O60. -/

namespace Sys2Proof

theorem Memory.write_write {m : Memory} (k : Nat) (v : Byte) (h : Memory.wf m = true) :
    Memory.write (Memory.write m k v) k v = Memory.write m k v := by
  have hwf := Memory.write_wf k v h
  refine Memory.ext_of_wf (Memory.write_wf k v hwf) hwf fun k' => ?_
  by_cases hk : k' = k
  · rw [hk, Memory.read_write_same k v hwf, Memory.read_write_same k v h]
  · rw [Memory.read_write_other _ v hk]

end Sys2Proof

namespace Sys2Proof.Machine

/-! ### What a store leaves unchanged -/

theorem storeTo_variant (chip : Chip) (tgt : Target) (val : Byte) : (storeTo chip tgt val).variant = chip.variant := by
  unfold storeTo
  split <;> rfl

theorem Chip.exists_m4_of_variant {chip : Chip} (h : chip.variant = .m4) : ∃ r, chip = .m4 r := by
  cases chip with
  | m4 r => exact ⟨r, rfl⟩
  | m0 => cases h
  | m1 r => cases h

/-- A store that does not write the byte of a physical store leaves it as it was. -/
theorem memRead_storeTo (img : RomImage) (chip : Chip) {tgt : Target} {st : PhysStore} {off : Nat} (h : tgt ≠ .ram st off)
    (val : Byte) : memRead ⟨img, storeTo chip tgt val⟩ st off = memRead ⟨img, chip⟩ st off := by
  have hother {m : Memory} {off' : Nat} (hne : off ≠ off') :
      readIn size8K (Memory.write m off' val) off = readIn size8K m off := by
    rw [readIn, readIn, Memory.read_write_other m val hne]
  unfold storeTo
  split
  · cases st <;> split <;>
      simp only [memRead, serialReset_prgRam, serialReset_chrRam, serialShift_prgRam, serialShift_chrRam]
  · cases st
    case chrRam => exact hother fun heq => h (heq ▸ rfl)
    all_goals rfl
  · cases st
    case prgRam => exact hother fun heq => h (heq ▸ rfl)
    all_goals rfl
  · cases st <;> rfl
  · cases st <;> simp only [memRead, writeSlot_prgRam]
  · rfl

/-! ### A transaction as a function of the chip and the word -/

/-- The chip after a transaction. -/
def chipAfter (chip : Chip) (tw : TxWord) : Chip :=
  match dirOf tw with
  | .load => chip
  | .store => storeTo chip (storeTarget chip (spaceOf tw) (addrOf tw)) (valOf tw)

/-- The byte a transaction returns: a load that of its target, a store none. -/
def byteOut (cfg : Config) (c : Cart) (tw : TxWord) : Option Byte :=
  match dirOf tw with
  | .load => targetByte c (loadTarget cfg c (spaceOf tw) (addrOf tw))
  | .store => none

theorem chipAfter_load {tw : TxWord} (h : dirOf tw = .load) (chip : Chip) : chipAfter chip tw = chip := by
  rw [chipAfter, h]

theorem chipAfter_store {tw : TxWord} (h : dirOf tw = .store) (chip : Chip) :
    chipAfter chip tw = storeTo chip (storeTarget chip (spaceOf tw) (addrOf tw)) (valOf tw) := by
  rw [chipAfter, h]

theorem byteOut_load {tw : TxWord} (h : dirOf tw = .load) (cfg : Config) (c : Cart) :
    byteOut cfg c tw = targetByte c (loadTarget cfg c (spaceOf tw) (addrOf tw)) := by
  rw [byteOut, h]

theorem byteOut_store {tw : TxWord} (h : dirOf tw = .store) (cfg : Config) (c : Cart) : byteOut cfg c tw = none := by
  rw [byteOut, h]

section Word

variable {s t : State} {tw : TxWord} {rest : List Presented}

/-- The step of a word changes nothing but the chip, which becomes `chipAfter`, and the outputs, of which the byte is
`byteOut`. -/
theorem step_word_effect (hp : s.pending = .word tw :: rest) (h : step s = .next t) :
    s.fault = none ∧ ∃ c tgt, s.cart = some c ∧ t = { s with
      pending := rest, req := some tw, target := some tgt, out := byteOut s.config c tw
      cart := some { c with chip := chipAfter c.chip tw } } := by
  obtain ⟨hf, c, hc, ⟨hd, tgt, b, htgt, hb, rfl⟩ | ⟨hd, tgt, htgt, rfl⟩⟩ := step_word_cases hp h
  · refine ⟨hf, c, tgt, hc, ?_⟩
    rw [chipAfter_load hd, byteOut_load hd, ← htgt, hb, ← hc]
    rfl
  · refine ⟨hf, c, tgt, hc, ?_⟩
    rw [chipAfter_store hd, byteOut_store hd, ← htgt]
    rfl

/-- A load has a step where its target has a byte, and returns that byte. -/
theorem exists_step_load {c : Cart} {b : Byte} (hf : s.fault = none) (hc : s.cart = some c)
    (hp : s.pending = .word tw :: rest) (hd : dirOf tw = .load) (hb : byteOut s.config c tw = some b) :
    ∃ t, step s = .next t ∧ t.out = some b :=
  ⟨_, (step_load hf hc hp hd).trans (loadFrom_eq_next_iff.2 ⟨b, (byteOut_load hd ..).symm.trans hb, rfl⟩), rfl⟩

/-- A load that has a step has a byte at its target, and returned it. -/
theorem step_load_out {c : Cart} (hc : s.cart = some c) (hp : s.pending = .word tw :: rest) (hd : dirOf tw = .load)
    (h : step s = .next t) : ∃ b, byteOut s.config c tw = some b ∧ t.out = some b := by
  obtain ⟨hf, -⟩ := live_of_step_word hp h
  obtain ⟨b, hb, rfl⟩ := loadFrom_eq_next_iff.1 ((step_load hf hc hp hd).symm.trans h)
  exact ⟨b, (byteOut_load hd ..).trans hb, rfl⟩

end Word

/-! ### What each side changes (R49) -/

section Sides

variable {tw : TxWord}

theorem chipAfter_variant (chip : Chip) (tw : TxWord) : (chipAfter chip tw).variant = chip.variant := by
  cases hd : dirOf tw with
  | load => rw [chipAfter_load hd]
  | store => rw [chipAfter_store hd, storeTo_variant]

theorem chipAfter_m0 (tw : TxWord) : chipAfter .m0 tw = .m0 := by
  cases hd : dirOf tw with
  | load => exact chipAfter_load hd _
  | store => rw [chipAfter_store hd, storeTarget_m0, storeTo_ignore]

theorem exists_chipAfter_m4 (r : M4Regs) (tw : TxWord) : ∃ r', chipAfter (.m4 r) tw = .m4 r' :=
  Chip.exists_m4_of_variant (chipAfter_variant (.m4 r) tw)

/-- A PRG transaction of M1 is a write of the serial port, or nothing. -/
theorem chipAfter_m1_prg (hsp : spaceOf tw = .prg) (r : M1Regs) :
    chipAfter (.m1 r) tw = .m1 (if dirOf tw = .store then serialWrite r (addrOf tw) (valOf tw) else r) := by
  cases hd : dirOf tw with
  | load => exact chipAfter_load hd _
  | store => rw [chipAfter_store hd, hsp, storeTo_m1_prg, if_pos rfl]

/-- A CHR transaction of M1 is a write of CHR-RAM, or nothing. -/
theorem chipAfter_m1_chr (hsp : spaceOf tw = .chr) (r : M1Regs) :
    chipAfter (.m1 r) tw = .m1 { r with
      chrRam := if dirOf tw = .store then chrRamWrite r.chrRam (addrOf tw) (valOf tw) else r.chrRam } := by
  cases hd : dirOf tw with
  | load => exact chipAfter_load hd _
  | store => rw [chipAfter_store hd, hsp, storeTo_m1_chr, if_pos rfl]

/-- No CHR transaction changes M4 (R189). -/
theorem chipAfter_m4_chr (hsp : spaceOf tw = .chr) (r : M4Regs) : chipAfter (.m4 r) tw = .m4 r := by
  cases hd : dirOf tw with
  | load => exact chipAfter_load hd _
  | store => rw [chipAfter_store hd, hsp]; exact storeTo_ignore ..

end Sides

/-! ### What a load depends on (R42) -/

section Reads

variable {cfg : Config} {img : RomImage} {tw : TxWord}

theorem byteOut_m1_prg (hsp : spaceOf tw = .prg) {r r' : M1Regs} (hmode : m1Mode r'.ctrl = m1Mode r.ctrl)
    (hbank : r'.prgBank = r.prgBank) : byteOut cfg ⟨img, .m1 r'⟩ tw = byteOut cfg ⟨img, .m1 r⟩ tw := by
  simp only [byteOut, hsp, loadTarget, prgLoadTarget, m1Bank, hmode, hbank]
  split
  · split <;> rfl
  · rfl

theorem byteOut_m1_chr (hsp : spaceOf tw = .chr) {r r' : M1Regs} (hram : r'.chrRam = r.chrRam) :
    byteOut cfg ⟨img, .m1 r'⟩ tw = byteOut cfg ⟨img, .m1 r⟩ tw := by
  simp only [byteOut, hsp, loadTarget, chrLoadTarget]
  split
  · split
    · simp only [targetByte, memRead, hram]
    · rfl
  · rfl

theorem byteOut_m4_prg (hsp : spaceOf tw = .prg) {r r' : M4Regs}
    (hmode : swap8000 cfg r'.bankSelect = swap8000 cfg r.bankSelect) (hbank0 : r'.prgBank0 = r.prgBank0)
    (hbank1 : r'.prgBank1 = r.prgBank1) (hram : r'.prgRam = r.prgRam) :
    byteOut cfg ⟨img, .m4 r'⟩ tw = byteOut cfg ⟨img, .m4 r⟩ tw := by
  simp only [byteOut, hsp, loadTarget, prgLoadTarget, m4RomOffset, hmode, hbank0, hbank1]
  split
  · split_ifs <;> simp only [targetByte, memRead, hram]
  · rfl

theorem byteOut_m4_chr (hsp : spaceOf tw = .chr) (r r' : M4Regs) :
    byteOut cfg ⟨img, .m4 r'⟩ tw = byteOut cfg ⟨img, .m4 r⟩ tw := by
  simp only [byteOut, hsp, loadTarget, chrLoadTarget]
  split
  · split <;> rfl
  · rfl

/-- The bits outside the mask 0xEC are no part of the PRG mode (R28). -/
theorem m1Mode_unread_bits (ctrl z : Byte) : m1Mode ((ctrl &&& 0xEC) ||| (z &&& 0x13)) = m1Mode ctrl := by
  have hfield : ctrlPrgMode ((ctrl &&& 0xEC) ||| (z &&& 0x13)) = ctrlPrgMode ctrl := by
    refine BitVec.eq_of_getLsbD_eq fun i hi => ?_
    interval_cases i <;> simp [ctrlPrgMode]
  rw [m1Mode, hfield, m1Mode]

/-- The bits outside the mask 0x47 are no part of the mode bit (R38). -/
theorem swap8000_unread_bits (cfg : Config) (bs z : Byte) :
    swap8000 cfg ((bs &&& 0x47) ||| (z &&& 0xB8)) = swap8000 cfg bs := by
  have hbit : ((bs &&& 0x47) ||| (z &&& 0xB8)).getLsbD 6 = bs.getLsbD 6 := by simp
  simp only [swap8000, hbit]

end Reads

/-! ### The two sides commute (R78) -/

section Commute

variable {p c : TxWord} (hp : spaceOf p = .prg) (hc : spaceOf c = .chr)
include hp hc

theorem chipAfter_comm (chip : Chip) : chipAfter (chipAfter chip p) c = chipAfter (chipAfter chip c) p := by
  cases chip with
  | m0 => simp only [chipAfter_m0]
  | m1 r =>
    rw [chipAfter_m1_prg hp, chipAfter_m1_chr hc, chipAfter_m1_chr hc, chipAfter_m1_prg hp]
    cases dirOf p with
    | load => rfl
    | store => simp only [if_true, serialWrite_with_chrRam, serialWrite_chrRam]
  | m4 r =>
    obtain ⟨r', hr'⟩ := exists_chipAfter_m4 r p
    rw [hr', chipAfter_m4_chr hc, chipAfter_m4_chr hc, hr']

/-- What a PRG load returns does not depend on the CHR side. -/
theorem byteOut_prg_of_chipAfter_chr (cfg : Config) (img : RomImage) (chip : Chip) :
    byteOut cfg ⟨img, chipAfter chip c⟩ p = byteOut cfg ⟨img, chip⟩ p := by
  cases chip with
  | m0 => rw [chipAfter_m0]
  | m1 r => rw [chipAfter_m1_chr hc]; exact byteOut_m1_prg hp rfl rfl
  | m4 r => rw [chipAfter_m4_chr hc]

/-- What a CHR load returns does not depend on the PRG side. -/
theorem byteOut_chr_of_chipAfter_prg (cfg : Config) (img : RomImage) (chip : Chip) :
    byteOut cfg ⟨img, chipAfter chip p⟩ c = byteOut cfg ⟨img, chip⟩ c := by
  cases chip with
  | m0 => rw [chipAfter_m0]
  | m1 r =>
    rw [chipAfter_m1_prg hp]
    refine byteOut_m1_chr hc ?_
    split
    · exact serialWrite_chrRam ..
    · rfl
  | m4 r =>
    obtain ⟨r', hr'⟩ := exists_chipAfter_m4 r p
    rw [hr']
    exact byteOut_m4_chr hc r r'

end Commute

/-! ### Repeated stores (R75) -/

theorem storeTo_storeTo_m4 {r : M4Regs} (hram : ramOk r.prgRam = true) (tgt : Target) (val : Byte) :
    storeTo (storeTo (.m4 r) tgt val) tgt val = storeTo (.m4 r) tgt val := by
  have hwf : Memory.wf r.prgRam = true := (Bool.and_eq_true_iff.1 hram).1
  cases tgt with
  | zero => rfl
  | ignore => rfl
  | rom st off => rfl
  | ram st off =>
    cases st
    case prgRam => simp only [storeTo, Memory.write_write off val hwf]
    all_goals rfl
  | reg name =>
    cases name with
    | serial d => rfl
    | bankSelect => rfl
    | slot sl => simp only [storeTo, writeSlot_writeSlot]

/-- A bank data write does not change which slot is selected, so no store moves its own target. -/
theorem storeTarget_storeTo_m4 (r : M4Regs) (sp : Space) (a : Addr) (val : Byte) :
    storeTarget (storeTo (.m4 r) (storeTarget (.m4 r) sp a) val) sp a = storeTarget (.m4 r) sp a := by
  cases sp with
  | chr => rfl
  | prg =>
    simp only [storeTarget, prgStoreTarget]
    split_ifs <;> simp [storeTo, *]

theorem chipAfter_chipAfter_m4 {r : M4Regs} (hram : ramOk r.prgRam = true) (tw : TxWord) :
    chipAfter (chipAfter (.m4 r) tw) tw = chipAfter (.m4 r) tw := by
  cases hd : dirOf tw with
  | load => rw [chipAfter_load hd]
  | store => rw [chipAfter_store hd, chipAfter_store hd, storeTarget_storeTo_m4, storeTo_storeTo_m4 hram]

theorem chipAfter_chipAfter_m1_chr {r : M1Regs} (hram : ramOk r.chrRam = true) {tw : TxWord} (hsp : spaceOf tw = .chr) :
    chipAfter (chipAfter (.m1 r) tw) tw = chipAfter (.m1 r) tw := by
  have hwf : Memory.wf r.chrRam = true := (Bool.and_eq_true_iff.1 hram).1
  rw [chipAfter_m1_chr hsp, chipAfter_m1_chr hsp]
  unfold chrRamWrite
  split_ifs
  · rw [Memory.write_write _ _ hwf]
  · rfl
  · rfl

/-! ### The registers of M4 (R180 to R184) -/

theorem getLsbD_zero_iff (a : Addr) : a.getLsbD 0 = true ↔ ¬ a.toNat % 2 = 0 := by
  simp [BitVec.getLsbD, Nat.testBit_zero]

theorem readSlot_with_other (r : M4Regs) (bs : Byte) (m : Memory) (sl : Slot) :
    readSlot { r with bankSelect := bs, prgRam := m } sl = readSlot r sl := by
  cases sl <;> rfl

theorem readSlot_writeSlot (r : M4Regs) (sl sl' : Slot) (v : Byte) :
    readSlot (writeSlot r sl v) sl' = if sl = sl' then v else readSlot r sl' := by
  split
  · subst sl'
    exact readSlot_writeSlot_same r sl v
  · exact readSlot_writeSlot_other r v (Ne.symm ‹_›)

/-- What a transaction makes of M4's registers: a PRG store in $8000-$9FFF is a bank select write at an even address and a
bank data write at an odd one, and anything else changes PRG-RAM at most. -/
theorem step_word_m4 {s t : State} {img img' : RomImage} {r r' : M4Regs} {tw : TxWord} {rest : List Presented}
    (hlive : s.liveM4 img r) (hp : s.pending = .word tw :: rest) (h : step s = .next t)
    (ht : t.cart = some ⟨img', .m4 r'⟩) :
    (dirOf tw = .store ∧ spaceOf tw = .prg ∧ (addrOf tw).toNat / 8192 = 4 ∧ (addrOf tw).toNat % 2 = 0 ∧
      r' = { r with bankSelect := valOf tw }) ∨
    (dirOf tw = .store ∧ spaceOf tw = .prg ∧ (addrOf tw).toNat / 8192 = 4 ∧ (addrOf tw).toNat % 2 = 1 ∧
      ∃ sl, slotOf (r.bankSelect.toNat % 8) = some sl ∧ r' = writeSlot r sl (valOf tw)) ∨
    (¬ (dirOf tw = .store ∧ spaceOf tw = .prg ∧ (addrOf tw).toNat / 8192 = 4) ∧ ∃ m, r' = { r with prgRam := m }) := by
  rw [step_word hp (liveVariant_m4 hlive.2)] at h
  obtain ⟨img₀, r₀, ⟨-, hc⟩, hcases⟩ := m4_next h
  obtain ⟨rfl, rfl⟩ : img = img₀ ∧ r = r₀ := by simpa using hlive.2.symm.trans hc
  rcases hcases with ⟨hd, b, tgt, rfl⟩ | ⟨hd, rfl, -, hwindow⟩ | ⟨hd, hsp, ha, rfl⟩ | ⟨hd, hsp, ha, hbit, rfl⟩ |
    ⟨hd, hsp, ha, hbit, sl, hsl, rfl⟩
  · cases hc.symm.trans ht
    exact .inr (.inr ⟨fun h => by simp [hd] at h, r.prgRam, rfl⟩)
  · cases hc.symm.trans ht
    exact .inr (.inr ⟨fun h => hwindow h.2, r.prgRam, rfl⟩)
  · cases ht
    exact .inr (.inr ⟨fun h => by omega, _, rfl⟩)
  · cases ht
    have heven := not_not.1 ((getLsbD_zero_iff (addrOf tw)).not.1 (Bool.eq_false_iff.1 hbit))
    exact .inl ⟨hd, hsp, ha, heven, rfl⟩
  · cases ht
    have hodd := Nat.mod_two_ne_zero.1 ((getLsbD_zero_iff _).1 hbit)
    exact .inr (.inl ⟨hd, hsp, ha, hodd, sl, updateSelect_toNat r.bankSelect ▸ hsl, rfl⟩)

/-! ### Targets (R62 to R65) -/

theorem targetByte_prgRom_some {c : Cart} {off : Nat} {b : Byte} (h : targetByte c (.rom .prgRom off) = some b) :
    off < c.image.prgLen ∧ b = Memory.read c.image.prg off := by
  simp only [targetByte, memRead, readIn] at h
  split at h
  · exact ⟨‹_›, (Option.some.inj h).symm⟩
  · cases h

section Word

variable {s t : State} {c : Cart} {tw : TxWord} {rest : List Presented}

theorem step_load_target (hc : s.cart = some c) (hp : s.pending = .word tw :: rest) (hd : dirOf tw = .load)
    (h : step s = .next t) : t.target = some (loadTarget s.config c (spaceOf tw) (addrOf tw)) := by
  obtain ⟨hf, -⟩ := live_of_step_word hp h
  obtain ⟨b, -, rfl⟩ := loadFrom_eq_next_iff.1 ((step_load hf hc hp hd).symm.trans h)
  rfl

theorem step_store_target (hc : s.cart = some c) (hp : s.pending = .word tw :: rest) (hd : dirOf tw = .store)
    (h : step s = .next t) : t.target = some (storeTarget c.chip (spaceOf tw) (addrOf tw)) := by
  obtain ⟨hf, -⟩ := live_of_step_word hp h
  obtain rfl := Host.Outcome.next.inj ((step_store hf hc hp hd).symm.trans h)
  rfl

/-- A load from PRG-ROM found its byte inside the image. -/
theorem step_prgRom_load {off : Nat} (hc : s.cart = some c) (hp : s.pending = .word tw :: rest) (hd : dirOf tw = .load)
    (h : step s = .next t) (htgt : loadTarget s.config c (spaceOf tw) (addrOf tw) = .rom .prgRom off) :
    ∃ off, off < c.image.prgLen ∧ t.target = some (.rom .prgRom off) ∧ t.out = some (Memory.read c.image.prg off) := by
  obtain ⟨b, hb, hout⟩ := step_load_out hc hp hd h
  rw [byteOut_load hd, htgt] at hb
  obtain ⟨hlt, rfl⟩ := targetByte_prgRom_some hb
  exact ⟨off, hlt, htgt ▸ step_load_target hc hp hd h, hout⟩

end Word

theorem slotOf_bankSelect (bs : Byte) : slotOf (bs.toNat % 8) = some (m4Slot bs) := by
  rw [← updateSelect_toNat, slotOf_updateSelect]

/-! ### The obligations -/

/-- Settles O51: a load leaves the chip, so that the same load finds the same byte. -/
theorem loadsHaveNoSideEffect : Obligations.LoadsHaveNoSideEffect := by
  intro s t tw rest hp hd h
  obtain ⟨hf, c, tgt, hc, rfl⟩ := step_word_effect hp h
  obtain ⟨b, hb, hout⟩ := step_load_out hc hp hd h
  rw [chipAfter_load hd, ← hc, hb]
  exact ⟨rfl, rfl, rfl, rfl, rfl, rfl, exists_step_load hf hc rfl hd hb⟩

/-- Settles O52: on M1 each side writes its own half of the chip, on M4 only the PRG side writes, on M0 neither. -/
theorem storesChangeOnlyWhatTheirSideMay : Obligations.StoresChangeOnlyWhatTheirSideMay := by
  intro s t c c' tw rest hp hd hc hc' h
  obtain ⟨hf, c₀, tgt, hc₀, rfl⟩ := step_word_effect hp h
  obtain rfl : c = c₀ := Option.some.inj (hc.symm.trans hc₀)
  obtain rfl := Option.some.inj hc'
  refine ⟨rfl, byteOut_store hd .., rfl, rfl, rfl, fun hm0 => ?m0, fun r hm1 => ?m1, fun r hm4 => ?m4⟩
  case m0 => exact hm0 ▸ chipAfter_m0 tw
  case m1 =>
    rw [hm1]
    cases hsp : spaceOf tw with
    | prg =>
      refine ⟨_, chipAfter_m1_prg hsp r, ?_, fun _ => ?_, nofun⟩
      · rw [if_pos hd, serialWrite_prgRam]
      · rw [if_pos hd, serialWrite_chrRam]
    | chr => exact ⟨_, chipAfter_m1_chr hsp r, rfl, nofun, fun _ => rfl⟩
  case m4 =>
    obtain ⟨r', hr'⟩ := exists_chipAfter_m4 r tw
    refine ⟨r', hm4 ▸ hr', fun hsp => ?_⟩
    exact Chip.m4.inj (hr'.symm.trans (chipAfter_m4_chr hsp r))

/-- Settles O53: a RAM store is the only one with a target in a physical store, and it names one byte. -/
theorem memoryFrameOfEveryTransaction : Obligations.MemoryFrameOfEveryTransaction := by
  intro s t tw rest st off hp h hm1 hm4
  obtain ⟨hf, c, tgt, hc, rfl⟩ := step_word_effect hp h
  have hv := liveVariant_eq hc
  simp only [State.ramByte, hc]
  cases hd : dirOf tw with
  | load => rw [chipAfter_load hd]
  | store =>
    rw [chipAfter_store hd]
    refine memRead_storeTo c.image c.chip (fun htgt => ?_) _
    obtain ⟨hvar, hst, hsp, ha, hoff⟩ | ⟨hvar, hst, hsp, ha, hoff⟩ := storeTarget_ram htgt
    · exact hm1 ⟨hd, hvar ▸ hv, hst, hsp, ha, hoff⟩
    · exact hm4 ⟨hd, hvar ▸ hv, hst, hsp, ha, hoff⟩

/-- Settles O54: each kind of transaction is excluded by the others' address bit, and changes what it names. -/
theorem m4SlotIsolation : Obligations.M4SlotIsolation := by
  intro s t img img' r r' tw rest isSelect isData hlive hp h ht hselect hdata
  rcases step_word_m4 hlive hp h ht with ⟨hd, hsp, ha, heven, rfl⟩ | ⟨hd, hsp, ha, hodd, sl, hsl, rfl⟩ |
    ⟨hother, m, rfl⟩
  · obtain rfl := hselect.2 ⟨hd, hsp, ha, heven⟩
    obtain rfl : isData = false := Bool.eq_false_iff.2 fun h => by
      obtain ⟨-, -, -, hodd⟩ := hdata.1 h
      omega
    simp [readSlot_with_other]
  · obtain rfl := hdata.2 ⟨hd, hsp, ha, hodd⟩
    obtain rfl : isSelect = false := Bool.eq_false_iff.2 fun h => by
      obtain ⟨-, -, -, heven⟩ := hselect.1 h
      omega
    simp [hsl, readSlot_writeSlot]
  · obtain rfl : isSelect = false := Bool.eq_false_iff.2 fun h => by
      obtain ⟨hd, hsp, ha, -⟩ := hselect.1 h
      exact hother ⟨hd, hsp, ha⟩
    obtain rfl : isData = false := Bool.eq_false_iff.2 fun h => by
      obtain ⟨hd, hsp, ha, -⟩ := hdata.1 h
      exact hother ⟨hd, hsp, ha⟩
    simp [readSlot_with_other]

/-- Settles O55: every load looks at the mode, the banks and the RAM of its own side only. -/
theorem unreadStateAffectsNoLoad : Obligations.UnreadStateAffectsNoLoad := by
  intro s t img tw rest hp hd h
  refine ⟨fun r x y z m hlive => ?m1, fun r a b c d e f z hlive => ?m4⟩
  case m1 =>
    obtain ⟨byte, hbyte, hout⟩ := step_load_out hlive.2 hp hd h
    rw [hout]
    refine exists_step_load hlive.1 rfl hp hd (Eq.trans ?_ hbyte)
    cases hsp : spaceOf tw with
    | prg => exact byteOut_m1_prg hsp (m1Mode_unread_bits ..) rfl
    | chr => exact byteOut_m1_chr hsp rfl
  case m4 =>
    obtain ⟨byte, hbyte, hout⟩ := step_load_out hlive.2 hp hd h
    rw [hout]
    refine exists_step_load hlive.1 rfl hp hd (Eq.trans ?_ hbyte)
    cases hsp : spaceOf tw with
    | prg => exact byteOut_m4_prg hsp (swap8000_unread_bits ..) rfl rfl rfl
    | chr => exact byteOut_m4_chr hsp ..

/-- Settles O56: the chips commute, and each side's byte does not depend on the other side's transaction. -/
theorem cpuAndPpuSidesCommute : Obligations.CpuAndPpuSidesCommute := by
  intro s t1 t2 u1 u2 p c rest hp hc ht1 ht2 hu1 hu2
  obtain ⟨-, cart, tgt1, hcart, rfl⟩ := step_word_effect rfl ht1
  obtain ⟨-, cart1, tgt2, hcart1, rfl⟩ := step_word_effect rfl ht2
  obtain ⟨-, cart', tgt1', hcart', rfl⟩ := step_word_effect rfl hu1
  obtain ⟨-, cart1', tgt2', hcart1', rfl⟩ := step_word_effect rfl hu2
  obtain rfl : cart = cart' := Option.some.inj (hcart.symm.trans hcart')
  cases hcart1
  cases hcart1'
  refine ⟨?_, ?_, ?_, rfl, rfl⟩
  · simp only [chipAfter_comm hp hc]
  · exact (byteOut_prg_of_chipAfter_chr hp hc ..).symm
  · exact byteOut_chr_of_chipAfter_prg hp hc ..

/-- Settles O58: a store to the same target again writes what is there. -/
theorem repeatedStoreIsIdempotent : Obligations.RepeatedStoreIsIdempotent := by
  intro s t u tw rest hp hinv hlive ht hu
  obtain ⟨-, ⟨img, chip⟩, tgt, hc, rfl⟩ := step_word_effect hp ht
  obtain ⟨-, c₁, tgt₁, hc₁, rfl⟩ := step_word_effect rfl hu
  cases hc₁
  obtain ⟨-, hcart⟩ := State.inv_iff.1 hinv
  obtain ⟨-, -, hchip⟩ := Cart.inv_iff.1 (hcart _ hc).1
  rw [liveVariant_eq hc] at hlive
  cases chip with
  | m0 => simp [Chip.variant] at hlive
  | m1 r =>
    obtain ⟨-, hsp⟩ := hlive.resolve_left nofun
    have hram := (M1Regs.inv_iff.1 (Bool.and_eq_true_iff.1 hchip).2).chrRam
    simp only [chipAfter_chipAfter_m1_chr hram hsp]
  | m4 r =>
    have hram : ramOk r.prgRam = true := (Bool.and_eq_true_iff.1 hchip).2
    simp only [chipAfter_chipAfter_m4 hram]

/-- Settles O59: a store has no ROM target, so its kind 3 or 4 is a RAM store's. -/
theorem portsShowTheTransaction : Obligations.PortsShowTheTransaction := by
  intro s t tw rest hp h
  obtain ⟨hf, c, hc, ⟨hd, tgt, b, htgt, hb, rfl⟩ | ⟨hd, tgt, htgt, rfl⟩⟩ := step_word_cases hp h
  · refine ⟨rfl, fun hd' => ?_, fun _ => ⟨?_, ?_⟩⟩
    · cases hd.symm.trans hd'
    · cases tgt <;> rfl
    · cases tgt with
      | zero => exact fun h => absurd rfl h
      | ignore => cases hb
      | reg name => cases hb
      | rom st off => exact fun _ => rfl
      | ram st off => exact fun _ => rfl
  · refine ⟨rfl, fun _ => ⟨rfl, ?_⟩, fun hd' => ?_⟩
    · cases tgt with
      | rom st off => exact absurd htgt.symm (storeTarget_ne_rom _ _ _ _ _)
      | ram st off =>
        obtain ⟨-, rfl, -⟩ | ⟨-, rfl, -⟩ := storeTarget_ram htgt.symm
        · exact ⟨fun _ => .inr rfl, fun _ => rfl⟩
        · exact ⟨fun _ => .inl rfl, fun _ => rfl⟩
      | _ => exact ⟨nofun, fun hkind => by rcases hkind with hkind | hkind <;> cases hkind⟩
    · cases hd.symm.trans hd'

/-- Settles O60: the translation of the word, read off chip by chip. -/
theorem targetsFollowTheWindowMap : Obligations.TargetsFollowTheWindowMap := by
  rintro s t img tw rest a hp h rfl
  refine ⟨fun hlive => ?m0, fun r hlive => ?m1, fun r hlive => ?m4⟩
  case m0 =>
    refine ⟨?_, fun hsp hd ha => ?_⟩
    · cases hd : dirOf tw with
      | load => rw [step_load_target hlive.2 hp hd h, loadTarget_m0]; rfl
      | store => rw [step_store_target hlive.2 hp hd h, storeTarget_m0, if_pos rfl]
    · have htgt := loadTarget_m0 s.config img (spaceOf tw) (addrOf tw)
      rw [if_neg (by simp [hsp]), if_neg (Nat.not_lt.2 ha)] at htgt
      exact step_prgRom_load hlive.2 hp hd h htgt
  case m1 =>
    refine ⟨fun hsp => ?chr, fun hsp hd => ?prgStore, fun hsp hd => ?prgLoad⟩
    case chr =>
      cases hd : dirOf tw with
      | load => rw [step_load_target hlive.2 hp hd h, hsp, loadTarget_m1_chr, if_pos rfl]
      | store => rw [step_store_target hlive.2 hp hd h, hsp, storeTarget_m1_chr]; rfl
    case prgStore =>
      rw [step_store_target hlive.2 hp hd h, hsp, storeTarget_m1_prg]
      split
      · rfl
      · rw [serialDest_eq (Nat.not_lt.1 ‹_›)]
        split_ifs <;> rfl
    case prgLoad =>
      have htgt := loadTarget_m1_prg s.config img r (addrOf tw)
      rw [← hsp] at htgt
      split
      · rw [step_load_target hlive.2 hp hd h, htgt, if_pos ‹_›]
      · exact step_prgRom_load hlive.2 hp hd h (htgt.trans (if_neg ‹_›))
  case m4 =>
    refine ⟨fun hsp => ?chr, fun hsp hd => ?prgStore, fun hsp hd => ?prgLoad⟩
    case chr =>
      cases hd : dirOf tw with
      | load => rw [step_load_target hlive.2 hp hd h, hsp, loadTarget_m4_chr]; rfl
      | store => rw [step_store_target hlive.2 hp hd h, hsp, storeTarget_m4_chr, if_pos rfl]
    case prgStore =>
      rw [step_store_target hlive.2 hp hd h, hsp, storeTarget_m4_prg, low13_eq]
      simp only [getLsbD_zero_iff]
      split_ifs
      · rfl
      · rfl
      · rfl
      · exact ⟨_, slotOf_bankSelect r.bankSelect, rfl⟩
      · rfl
    case prgLoad =>
      have htgt := loadTarget_m4_prg s.config img r (addrOf tw)
      rw [← hsp] at htgt
      split_ifs at htgt ⊢
      · rw [step_load_target hlive.2 hp hd h, htgt]
      · rw [step_load_target hlive.2 hp hd h, htgt, low13_eq]
      · exact step_prgRom_load hlive.2 hp hd h htgt

/-- Settles O57: a shift masks its data by 1, and an M1 load its address by 0x3FFF. -/
theorem ignoredBitsChangeNothing : Obligations.IgnoredBitsChangeNothing := by
  intro s a b v w
  refine ⟨fun hbit => ?_, rfl, rfl, rfl, fun haddr => ?_⟩
  · have hshift (d : SerialDest) : m1Shift d v s = m1Shift d w s := by
      simp only [m1Shift, serialShift_eq, shiftAccum_eq, hbit]
    exact ⟨hshift .ctrl, hshift .chrBank0, hshift .chrBank1, hshift .prgBank⟩
  · have hlow : low14 a = low14 b := by rw [low14_eq, low14_eq, haddr]
    have hload (bank : PrgMode → Nat) (c : Cart) (r : M1Regs) : m1PrgLoad bank a c r s = m1PrgLoad bank b c r s := by
      rw [m1PrgLoad, m1PrgLoad, hlow]
    exact ⟨congrArg (onM1 s) (funext₂ fun c r => hload _ c r), congrArg (onM1 s) (funext₂ fun c r => hload _ c r)⟩

end Sys2Proof.Machine
end
